-- ==== Sys2Proof/Config.lean ====
section
/-! DEFINITION. The numeric parameters of the block, each a named constant under its name in the table of
00_scope.md R7. Every type, field position and check that depends on one is written with its name. A
width reaches a type as `delta% Config.<name>`, which Lean replaces by the constant's value as it reads
the line, so that the types carry a plain number. -/

namespace Sys2Proof.Config

/-- WORD_BITS, the width of every register, memory cell and instruction (R7). -/
def wordBits : Nat := 64

/-- ADDR_FIELD_BITS, the width of the address field, bits 63 to 24 (R7). -/
def addrFieldBits : Nat := 40

/-- INDEX_FIELD_BITS, the width of the index field, bits 23 to 16 (R7). -/
def indexFieldBits : Nat := 8

/-- MOD_FIELD_BITS, the width of the modifier field, bits 15 to 8 (R7). -/
def modFieldBits : Nat := 8

/-- OPCODE_FIELD_BITS, the width of the opcode field, bits 7 to 0 (R7). -/
def opcodeFieldBits : Nat := 8

/-- N_INDEX, the number of index registers, I[1] to I[6] (R7). -/
def nIndex : Nat := 6

/-- MEM_SIZE, the number of memory words, addresses 0 to 99 (R7, 92_eei_decisions.md D2). -/
def memSize : Nat := 100

/-- PC_BITS, the width of the instruction pointer (R7, 92_eei_decisions.md D5). -/
def pcBits : Nat := 64

/-- EA_BITS, the width of the effective address (R7, 92_eei_decisions.md D3). -/
def eaBits : Nat := 64

/-- RESET_PC, the instruction pointer after reset (R7, 10_state.md R36). -/
def resetPc : BitVec (delta% pcBits) := 1

/-- HALT_ADDR, the instruction-pointer value that halts (R7, 40_fetch_dispatch.md R107). -/
def haltAddr : BitVec (delta% pcBits) := 0

end Sys2Proof.Config
end

