-- ==== Sys2Proof/Word.lean ====
section
/-! DEFINITION. The word and field types of the machine (00_scope.md R7, R8; 30_encoding.md R70), each of
the width its constant of Config.lean gives. -/

namespace Sys2Proof

/-- A 64-bit word: the content of every register and memory cell, and an instruction (R8, R35). -/
abbrev Word := BitVec (delta% Config.wordBits)

/-- The address field of an instruction (R70, R74). -/
abbrev AddressField := BitVec (delta% Config.addrFieldBits)

/-- The index field of an instruction (R70, R75). -/
abbrev IndexField := BitVec (delta% Config.indexFieldBits)

/-- The modifier field of an instruction (R70, R76). -/
abbrev ModifierField := BitVec (delta% Config.modFieldBits)

/-- The opcode field of an instruction (R70, R78). -/
abbrev OpcodeField := BitVec (delta% Config.opcodeFieldBits)

/-- The content of the instruction pointer (10_state.md R25). -/
abbrev Pc := BitVec (delta% Config.pcBits)

/-- An effective address (40_fetch_dispatch.md R104, R105). -/
abbrev EffectiveAddress := BitVec (delta% Config.eaBits)

/-- One byte of a word (R8). -/
abbrev Byte := BitVec 8

end Sys2Proof
end

