-- ==== Sys2Proof/Syntax.lean ====
section
/-! DEFINITION. The instructions: one constructor per row of spec/opcode_table.json, in the table's
order (30_encoding.md R80). A constructor holds every field its encoding leaves free, so that no bit of
a word is dropped: the address and index fields always, and the modifier field where the row takes any
modifier (R76, R83). Where the modifier selects the instruction (opcodes 39 and 48 to 55; R81, R82) it
is part of the constructor. -/

namespace Sys2Proof

/-- The 62 instructions and the reserved opcode 40 (30_encoding.md R80). -/
inductive Instr where
  /-- ADD, add to A (R161). -/
  | add (address : AddressField) (index : IndexField) (modifier : ModifierField)
  /-- SUB, subtract from A (R162). -/
  | sub (address : AddressField) (index : IndexField) (modifier : ModifierField)
  /-- MUL, multiply A (R163). -/
  | mul (address : AddressField) (index : IndexField) (modifier : ModifierField)
  /-- DIV, divide A (R164). -/
  | div (address : AddressField) (index : IndexField) (modifier : ModifierField)
  /-- LDA, load A (R131). -/
  | lda (address : AddressField) (index : IndexField) (modifier : ModifierField)
  /-- LD1, load I[1] (R132). -/
  | ld1 (address : AddressField) (index : IndexField) (modifier : ModifierField)
  /-- LD2, load I[2] (R133). -/
  | ld2 (address : AddressField) (index : IndexField) (modifier : ModifierField)
  /-- LD3, load I[3] (R134). -/
  | ld3 (address : AddressField) (index : IndexField) (modifier : ModifierField)
  /-- LD4, load I[4] (R135). -/
  | ld4 (address : AddressField) (index : IndexField) (modifier : ModifierField)
  /-- LD5, load I[5] (R136). -/
  | ld5 (address : AddressField) (index : IndexField) (modifier : ModifierField)
  /-- LD6, load I[6] (R137). -/
  | ld6 (address : AddressField) (index : IndexField) (modifier : ModifierField)
  /-- LDX, load X (R138). -/
  | ldx (address : AddressField) (index : IndexField) (modifier : ModifierField)
  /-- STA, store A (R141). -/
  | sta (address : AddressField) (index : IndexField) (modifier : ModifierField)
  /-- ST1, store I[1] (R142). -/
  | st1 (address : AddressField) (index : IndexField) (modifier : ModifierField)
  /-- ST2, store I[2] (R143). -/
  | st2 (address : AddressField) (index : IndexField) (modifier : ModifierField)
  /-- ST3, store I[3] (R144). -/
  | st3 (address : AddressField) (index : IndexField) (modifier : ModifierField)
  /-- ST4, store I[4] (R145). -/
  | st4 (address : AddressField) (index : IndexField) (modifier : ModifierField)
  /-- ST5, store I[5] (R146). -/
  | st5 (address : AddressField) (index : IndexField) (modifier : ModifierField)
  /-- ST6, store I[6] (R147). -/
  | st6 (address : AddressField) (index : IndexField) (modifier : ModifierField)
  /-- STX, store X (R148). -/
  | stx (address : AddressField) (index : IndexField) (modifier : ModifierField)
  /-- STJ, store J (R149). -/
  | stj (address : AddressField) (index : IndexField) (modifier : ModifierField)
  /-- STZ, store zero (R150). -/
  | stz (address : AddressField) (index : IndexField) (modifier : ModifierField)
  /-- JMP, jump and save J (R216). -/
  | jmp (address : AddressField) (index : IndexField)
  /-- JSJ, jump without saving J (R217). -/
  | jsj (address : AddressField) (index : IndexField)
  /-- JL, jump if less (R218). -/
  | jl (address : AddressField) (index : IndexField)
  /-- JE, jump if equal (R219). -/
  | je (address : AddressField) (index : IndexField)
  /-- JG, jump if greater (R220). -/
  | jg (address : AddressField) (index : IndexField)
  /-- JGE, jump if not less (R221). -/
  | jge (address : AddressField) (index : IndexField)
  /-- JNE, jump if not equal (R222). -/
  | jne (address : AddressField) (index : IndexField)
  /-- JLE, jump if not greater (R223). -/
  | jle (address : AddressField) (index : IndexField)
  /-- RESERVED40, the reserved opcode 40 (R224). -/
  | reserved40 (address : AddressField) (index : IndexField) (modifier : ModifierField)
  /-- INCA, increment A (R171). -/
  | inca (address : AddressField) (index : IndexField)
  /-- DECA, decrement A (R172). -/
  | deca (address : AddressField) (index : IndexField)
  /-- ENTA, enter A (R173). -/
  | enta (address : AddressField) (index : IndexField)
  /-- INC1, increment I[1] (R174). -/
  | inc1 (address : AddressField) (index : IndexField)
  /-- DEC1, decrement I[1] (R175). -/
  | dec1 (address : AddressField) (index : IndexField)
  /-- ENT1, enter I[1] (R176). -/
  | ent1 (address : AddressField) (index : IndexField)
  /-- INC2, increment I[2] (R177). -/
  | inc2 (address : AddressField) (index : IndexField)
  /-- DEC2, decrement I[2] (R178). -/
  | dec2 (address : AddressField) (index : IndexField)
  /-- ENT2, enter I[2] (R179). -/
  | ent2 (address : AddressField) (index : IndexField)
  /-- INC3, increment I[3] (R180). -/
  | inc3 (address : AddressField) (index : IndexField)
  /-- DEC3, decrement I[3] (R181). -/
  | dec3 (address : AddressField) (index : IndexField)
  /-- ENT3, enter I[3] (R182). -/
  | ent3 (address : AddressField) (index : IndexField)
  /-- INC4, increment I[4] (R183). -/
  | inc4 (address : AddressField) (index : IndexField)
  /-- DEC4, decrement I[4] (R184). -/
  | dec4 (address : AddressField) (index : IndexField)
  /-- ENT4, enter I[4] (R185). -/
  | ent4 (address : AddressField) (index : IndexField)
  /-- INC5, increment I[5] (R186). -/
  | inc5 (address : AddressField) (index : IndexField)
  /-- DEC5, decrement I[5] (R187). -/
  | dec5 (address : AddressField) (index : IndexField)
  /-- ENT5, enter I[5] (R188). -/
  | ent5 (address : AddressField) (index : IndexField)
  /-- INC6, increment I[6] (R189). -/
  | inc6 (address : AddressField) (index : IndexField)
  /-- DEC6, decrement I[6] (R190). -/
  | dec6 (address : AddressField) (index : IndexField)
  /-- ENT6, enter I[6] (R191). -/
  | ent6 (address : AddressField) (index : IndexField)
  /-- INCX, increment X (R192). -/
  | incx (address : AddressField) (index : IndexField)
  /-- DECX, decrement X (R193). -/
  | decx (address : AddressField) (index : IndexField)
  /-- ENTX, enter X (R194). -/
  | entx (address : AddressField) (index : IndexField)
  /-- CMPA, compare A with memory (R201). -/
  | cmpa (address : AddressField) (index : IndexField) (modifier : ModifierField)
  /-- CMP1, compare I[1] with memory (R202). -/
  | cmp1 (address : AddressField) (index : IndexField) (modifier : ModifierField)
  /-- CMP2, compare I[2] with memory (R203). -/
  | cmp2 (address : AddressField) (index : IndexField) (modifier : ModifierField)
  /-- CMP3, compare I[3] with memory (R204). -/
  | cmp3 (address : AddressField) (index : IndexField) (modifier : ModifierField)
  /-- CMP4, compare I[4] with memory (R205). -/
  | cmp4 (address : AddressField) (index : IndexField) (modifier : ModifierField)
  /-- CMP5, compare I[5] with memory (R206). -/
  | cmp5 (address : AddressField) (index : IndexField) (modifier : ModifierField)
  /-- CMP6, compare I[6] with memory (R207). -/
  | cmp6 (address : AddressField) (index : IndexField) (modifier : ModifierField)
  /-- CMPX, compare X with memory (R208). -/
  | cmpx (address : AddressField) (index : IndexField) (modifier : ModifierField)
deriving DecidableEq, Repr

/-- The address field of an instruction (R70, R74). -/
def Instr.address : Instr → AddressField
  | .add v _ _ | .sub v _ _ | .mul v _ _ | .div v _ _
  | .lda v _ _ | .ld1 v _ _ | .ld2 v _ _ | .ld3 v _ _
  | .ld4 v _ _ | .ld5 v _ _ | .ld6 v _ _ | .ldx v _ _
  | .sta v _ _ | .st1 v _ _ | .st2 v _ _ | .st3 v _ _
  | .st4 v _ _ | .st5 v _ _ | .st6 v _ _ | .stx v _ _
  | .stj v _ _ | .stz v _ _ | .jmp v _ | .jsj v _
  | .jl v _ | .je v _ | .jg v _ | .jge v _
  | .jne v _ | .jle v _ | .reserved40 v _ _ | .inca v _
  | .deca v _ | .enta v _ | .inc1 v _ | .dec1 v _
  | .ent1 v _ | .inc2 v _ | .dec2 v _ | .ent2 v _
  | .inc3 v _ | .dec3 v _ | .ent3 v _ | .inc4 v _
  | .dec4 v _ | .ent4 v _ | .inc5 v _ | .dec5 v _
  | .ent5 v _ | .inc6 v _ | .dec6 v _ | .ent6 v _
  | .incx v _ | .decx v _ | .entx v _ | .cmpa v _ _
  | .cmp1 v _ _ | .cmp2 v _ _ | .cmp3 v _ _ | .cmp4 v _ _
  | .cmp5 v _ _ | .cmp6 v _ _ | .cmpx v _ _ => v

/-- The index field of an instruction (R70, R75). -/
def Instr.index : Instr → IndexField
  | .add _ v _ | .sub _ v _ | .mul _ v _ | .div _ v _
  | .lda _ v _ | .ld1 _ v _ | .ld2 _ v _ | .ld3 _ v _
  | .ld4 _ v _ | .ld5 _ v _ | .ld6 _ v _ | .ldx _ v _
  | .sta _ v _ | .st1 _ v _ | .st2 _ v _ | .st3 _ v _
  | .st4 _ v _ | .st5 _ v _ | .st6 _ v _ | .stx _ v _
  | .stj _ v _ | .stz _ v _ | .jmp _ v | .jsj _ v
  | .jl _ v | .je _ v | .jg _ v | .jge _ v
  | .jne _ v | .jle _ v | .reserved40 _ v _ | .inca _ v
  | .deca _ v | .enta _ v | .inc1 _ v | .dec1 _ v
  | .ent1 _ v | .inc2 _ v | .dec2 _ v | .ent2 _ v
  | .inc3 _ v | .dec3 _ v | .ent3 _ v | .inc4 _ v
  | .dec4 _ v | .ent4 _ v | .inc5 _ v | .dec5 _ v
  | .ent5 _ v | .inc6 _ v | .dec6 _ v | .ent6 _ v
  | .incx _ v | .decx _ v | .entx _ v | .cmpa _ v _
  | .cmp1 _ v _ | .cmp2 _ v _ | .cmp3 _ v _ | .cmp4 _ v _
  | .cmp5 _ v _ | .cmp6 _ v _ | .cmpx _ v _ => v

/-- How an instruction reads its index field: the "indexing" column of spec/opcode_table.json. -/
inductive Indexing where
  /-- 0 adds nothing, 1 to 6 adds I[index] (40_fetch_dispatch.md R104). -/
  | standard
  /-- 0 to 5 adds I[index + 1] (40_fetch_dispatch.md R105). -/
  | arithmetic
  /-- No field but the opcode is examined (45_jump.md R224). -/
  | unexamined
deriving DecidableEq, Repr

/-- The indexing form of each instruction (R75; the table's "indexing" column). -/
def Instr.indexing : Instr → Indexing
  | .add _ _ _ | .sub _ _ _ | .mul _ _ _ | .div _ _ _ => .arithmetic
  | .reserved40 _ _ _ => .unexamined
  | .lda _ _ _ | .ld1 _ _ _ | .ld2 _ _ _ | .ld3 _ _ _
  | .ld4 _ _ _ | .ld5 _ _ _ | .ld6 _ _ _ | .ldx _ _ _
  | .sta _ _ _ | .st1 _ _ _ | .st2 _ _ _ | .st3 _ _ _
  | .st4 _ _ _ | .st5 _ _ _ | .st6 _ _ _ | .stx _ _ _
  | .stj _ _ _ | .stz _ _ _ | .jmp _ _ | .jsj _ _
  | .jl _ _ | .je _ _ | .jg _ _ | .jge _ _
  | .jne _ _ | .jle _ _ | .inca _ _ | .deca _ _
  | .enta _ _ | .inc1 _ _ | .dec1 _ _ | .ent1 _ _
  | .inc2 _ _ | .dec2 _ _ | .ent2 _ _ | .inc3 _ _
  | .dec3 _ _ | .ent3 _ _ | .inc4 _ _ | .dec4 _ _
  | .ent4 _ _ | .inc5 _ _ | .dec5 _ _ | .ent5 _ _
  | .inc6 _ _ | .dec6 _ _ | .ent6 _ _ | .incx _ _
  | .decx _ _ | .entx _ _ | .cmpa _ _ _ | .cmp1 _ _ _
  | .cmp2 _ _ _ | .cmp3 _ _ _ | .cmp4 _ _ _ | .cmp5 _ _ _
  | .cmp6 _ _ _ | .cmpx _ _ _ => .standard

end Sys2Proof
end

