-- ==== Sys2Proof/Decode.lean ====
section
/-! DEFINITION. The decoder and the encoder (30_encoding.md). Field extraction is total and pure (R71,
R72); the opcode map and the modifier maps are those of R80 to R87. -/

namespace Sys2Proof

/-! ### Fields (R71)

A field starts where the fields below it end. -/

/-- `opcode(word)`: the low-order byte, w[7:0]. -/
def opcodeField (w : Word) : OpcodeField := w.extractLsb' 0 (delta% Config.opcodeFieldBits)

/-- `modifier(word)`: the second-lowest byte, w[15:8]. -/
def modifierField (w : Word) : ModifierField :=
  w.extractLsb' (delta% Config.opcodeFieldBits) (delta% Config.modFieldBits)

/-- `index(word)`: the third-lowest byte, w[23:16]. -/
def indexField (w : Word) : IndexField :=
  w.extractLsb' ((delta% Config.opcodeFieldBits) + (delta% Config.modFieldBits))
    (delta% Config.indexFieldBits)

/-- `address(word)`: the five high-order bytes, w[63:24]. -/
def addressField (w : Word) : AddressField :=
  w.extractLsb'
    ((delta% Config.opcodeFieldBits) + (delta% Config.modFieldBits) + (delta% Config.indexFieldBits))
    (delta% Config.addrFieldBits)

/-- `fields(word)`: the four fields together, (address, index, modifier, opcode). -/
def fields (w : Word) : AddressField × IndexField × ModifierField × OpcodeField :=
  (addressField w, indexField w, modifierField w, opcodeField w)

/-! ### Decoding -/

/-- Why a word is no instruction. Each of them raises DecodeFault when the word is run
(60_exceptions.md R241). -/
inductive Reject where
  /-- An opcode outside every range: 0, 5 to 7, 16 to 23, 34 to 38, 64 to 255 (30_encoding.md R84). -/
  | illegalOpcode
  /-- Opcodes 41 to 47, in the jump range but not enumerated (30_encoding.md R86, 45_jump.md R225). -/
  | unlistedJumpOpcode
  /-- Opcode 39 with modifier 2, 3 or 10 to 255 (45_jump.md R226). -/
  | badJumpModifier
  /-- Opcodes 48 to 55 with modifier 3 to 255 (43_inc_dec_enter.md R195). -/
  | badIncDecEnterModifier
deriving DecidableEq, Repr

/-- What the decoder answers: an instruction, or a rejection by name. -/
inductive Decoded where
  | instr (i : Instr)
  | reject (why : Reject)
deriving DecidableEq, Repr

/-- The modifier map of opcode 39 (30_encoding.md R82). -/
def decodeJump (address : AddressField) (index : IndexField) (modifier : ModifierField) : Decoded :=
  match modifier.toNat with
  | 0 => .instr (.jmp address index)
  | 1 => .instr (.jsj address index)
  | 4 => .instr (.jl address index)
  | 5 => .instr (.je address index)
  | 6 => .instr (.jg address index)
  | 7 => .instr (.jge address index)
  | 8 => .instr (.jne address index)
  | 9 => .instr (.jle address index)
  | _ => .reject .badJumpModifier

/-- The modifier map of opcodes 48 to 55: 0 increments, 1 decrements, 2 enters (30_encoding.md R81). -/
def decodeIncDecEnter (increment decrement enter : Instr) (modifier : ModifierField) : Decoded :=
  match modifier.toNat with
  | 0 => .instr increment
  | 1 => .instr decrement
  | 2 => .instr enter
  | _ => .reject .badIncDecEnterModifier

/-- The decoder: total on every 64-bit word (30_encoding.md R72, R78, R80, R87). -/
def decode (w : Word) : Decoded :=
  let address := addressField w
  let index := indexField w
  let modifier := modifierField w
  match (opcodeField w).toNat with
  | 1 => .instr (.add address index modifier)
  | 2 => .instr (.sub address index modifier)
  | 3 => .instr (.mul address index modifier)
  | 4 => .instr (.div address index modifier)
  | 8 => .instr (.lda address index modifier)
  | 9 => .instr (.ld1 address index modifier)
  | 10 => .instr (.ld2 address index modifier)
  | 11 => .instr (.ld3 address index modifier)
  | 12 => .instr (.ld4 address index modifier)
  | 13 => .instr (.ld5 address index modifier)
  | 14 => .instr (.ld6 address index modifier)
  | 15 => .instr (.ldx address index modifier)
  | 24 => .instr (.sta address index modifier)
  | 25 => .instr (.st1 address index modifier)
  | 26 => .instr (.st2 address index modifier)
  | 27 => .instr (.st3 address index modifier)
  | 28 => .instr (.st4 address index modifier)
  | 29 => .instr (.st5 address index modifier)
  | 30 => .instr (.st6 address index modifier)
  | 31 => .instr (.stx address index modifier)
  | 32 => .instr (.stj address index modifier)
  | 33 => .instr (.stz address index modifier)
  | 39 => decodeJump address index modifier
  | 40 => .instr (.reserved40 address index modifier)
  | 41 | 42 | 43 | 44 | 45 | 46 | 47 => .reject .unlistedJumpOpcode
  | 48 => decodeIncDecEnter (.inca address index) (.deca address index) (.enta address index) modifier
  | 49 => decodeIncDecEnter (.inc1 address index) (.dec1 address index) (.ent1 address index) modifier
  | 50 => decodeIncDecEnter (.inc2 address index) (.dec2 address index) (.ent2 address index) modifier
  | 51 => decodeIncDecEnter (.inc3 address index) (.dec3 address index) (.ent3 address index) modifier
  | 52 => decodeIncDecEnter (.inc4 address index) (.dec4 address index) (.ent4 address index) modifier
  | 53 => decodeIncDecEnter (.inc5 address index) (.dec5 address index) (.ent5 address index) modifier
  | 54 => decodeIncDecEnter (.inc6 address index) (.dec6 address index) (.ent6 address index) modifier
  | 55 => decodeIncDecEnter (.incx address index) (.decx address index) (.entx address index) modifier
  | 56 => .instr (.cmpa address index modifier)
  | 57 => .instr (.cmp1 address index modifier)
  | 58 => .instr (.cmp2 address index modifier)
  | 59 => .instr (.cmp3 address index modifier)
  | 60 => .instr (.cmp4 address index modifier)
  | 61 => .instr (.cmp5 address index modifier)
  | 62 => .instr (.cmp6 address index modifier)
  | 63 => .instr (.cmpx address index modifier)
  | _ => .reject .illegalOpcode

/-! ### Encoding -/

/-- The word of the four fields: `(address << 24) | (index << 16) | (modifier << 8) | opcode`
(30_encoding.md R73). -/
def assemble (address : AddressField) (index : IndexField) (modifier : ModifierField)
    (opcode : OpcodeField) : Word :=
  (address.setWidth (delta% Config.wordBits) <<<
      ((delta% Config.opcodeFieldBits) + (delta% Config.modFieldBits) + (delta% Config.indexFieldBits)))
    ||| (index.setWidth (delta% Config.wordBits) <<<
      ((delta% Config.opcodeFieldBits) + (delta% Config.modFieldBits)))
    ||| (modifier.setWidth (delta% Config.wordBits) <<< (delta% Config.opcodeFieldBits))
    ||| opcode.setWidth (delta% Config.wordBits)

/-- The opcode byte of each instruction (30_encoding.md R80). -/
def opcodeOf : Instr → OpcodeField
  | .add _ _ _ => 1
  | .sub _ _ _ => 2
  | .mul _ _ _ => 3
  | .div _ _ _ => 4
  | .lda _ _ _ => 8
  | .ld1 _ _ _ => 9
  | .ld2 _ _ _ => 10
  | .ld3 _ _ _ => 11
  | .ld4 _ _ _ => 12
  | .ld5 _ _ _ => 13
  | .ld6 _ _ _ => 14
  | .ldx _ _ _ => 15
  | .sta _ _ _ => 24
  | .st1 _ _ _ => 25
  | .st2 _ _ _ => 26
  | .st3 _ _ _ => 27
  | .st4 _ _ _ => 28
  | .st5 _ _ _ => 29
  | .st6 _ _ _ => 30
  | .stx _ _ _ => 31
  | .stj _ _ _ => 32
  | .stz _ _ _ => 33
  | .jmp _ _ | .jsj _ _ | .jl _ _ | .je _ _
  | .jg _ _ | .jge _ _ | .jne _ _ | .jle _ _ => 39
  | .reserved40 _ _ _ => 40
  | .inca _ _ | .deca _ _ | .enta _ _ => 48
  | .inc1 _ _ | .dec1 _ _ | .ent1 _ _ => 49
  | .inc2 _ _ | .dec2 _ _ | .ent2 _ _ => 50
  | .inc3 _ _ | .dec3 _ _ | .ent3 _ _ => 51
  | .inc4 _ _ | .dec4 _ _ | .ent4 _ _ => 52
  | .inc5 _ _ | .dec5 _ _ | .ent5 _ _ => 53
  | .inc6 _ _ | .dec6 _ _ | .ent6 _ _ => 54
  | .incx _ _ | .decx _ _ | .entx _ _ => 55
  | .cmpa _ _ _ => 56
  | .cmp1 _ _ _ => 57
  | .cmp2 _ _ _ => 58
  | .cmp3 _ _ _ => 59
  | .cmp4 _ _ _ => 60
  | .cmp5 _ _ _ => 61
  | .cmp6 _ _ _ => 62
  | .cmpx _ _ _ => 63

/-- The modifier byte of each instruction: the one that selects it (30_encoding.md R81, R82), or the
one it was written with where any modifier will do (R83). -/
def modifierOf : Instr → ModifierField
  | .add _ _ v | .sub _ _ v | .mul _ _ v | .div _ _ v
  | .lda _ _ v | .ld1 _ _ v | .ld2 _ _ v | .ld3 _ _ v
  | .ld4 _ _ v | .ld5 _ _ v | .ld6 _ _ v | .ldx _ _ v
  | .sta _ _ v | .st1 _ _ v | .st2 _ _ v | .st3 _ _ v
  | .st4 _ _ v | .st5 _ _ v | .st6 _ _ v | .stx _ _ v
  | .stj _ _ v | .stz _ _ v | .reserved40 _ _ v | .cmpa _ _ v
  | .cmp1 _ _ v | .cmp2 _ _ v | .cmp3 _ _ v | .cmp4 _ _ v
  | .cmp5 _ _ v | .cmp6 _ _ v | .cmpx _ _ v => v
  | .jmp _ _ | .inca _ _ | .inc1 _ _ | .inc2 _ _
  | .inc3 _ _ | .inc4 _ _ | .inc5 _ _ | .inc6 _ _
  | .incx _ _ => 0
  | .jsj _ _ | .deca _ _ | .dec1 _ _ | .dec2 _ _
  | .dec3 _ _ | .dec4 _ _ | .dec5 _ _ | .dec6 _ _
  | .decx _ _ => 1
  | .enta _ _ | .ent1 _ _ | .ent2 _ _ | .ent3 _ _
  | .ent4 _ _ | .ent5 _ _ | .ent6 _ _ | .entx _ _ => 2
  | .jl _ _ => 4
  | .je _ _ => 5
  | .jg _ _ => 6
  | .jge _ _ => 7
  | .jne _ _ => 8
  | .jle _ _ => 9

/-- The encoder: the word of an instruction (30_encoding.md R73, R80). -/
def encode (i : Instr) : Word := assemble i.address i.index (modifierOf i) (opcodeOf i)

/-! ### The host's view of the decoder -/

/-- The instruction the decoder reads from the table row's bits: bit 0 of `w` is bit 0 of the word, and
bits from `nbits` up are 0. An instruction is one 64-bit word (30_encoding.md R70, R88). -/
def decodeTableWord (nbits w : Nat) : Option Instr :=
  match decode (BitVec.ofNat (delta% Config.wordBits) (w % 2 ^ nbits)) with
  | .instr i => some i
  | .reject _ => none

end Sys2Proof
end

