-- ==== Sys2Proof/Machine/State.lean ====
section
/-! DEFINITION. The state of the machine (10_state.md), as plain data, and its value after reset. -/

namespace Sys2Proof.Machine

/-- The comparison flag CI: three values, no encoding (10_state.md R26). -/
inductive Comparison where
  | less
  | equal
  | greater
deriving DecidableEq, Repr

/-- STATUS, the run state (10_state.md R30). -/
inductive RunStatus where
  | running
  | halted
  | faulted
deriving DecidableEq, Repr

/-- The five kinds of fatal condition (60_exceptions.md R240). -/
inductive FaultCause where
  /-- A word that is no instruction (R241). -/
  | decodeFault
  /-- Opcode 40 (R242). -/
  | unimplemented
  /-- An index field that selects no index register (R243). -/
  | indexFault
  /-- A data access or a fetch at MEM_SIZE or above (R244). -/
  | addressFault
  /-- Division by the zero word (R245). -/
  | arithmeticFault
deriving DecidableEq, Repr

/-- The contents of FAULT once a fatal condition has been raised (10_state.md R31). -/
structure FaultRecord where
  /-- FAULT.cause. -/
  cause : FaultCause
  /-- FAULT.pc, the address of the offending instruction. -/
  pc : Pc
  /-- FAULT.word, its raw encoding; absent when the fetch itself faulted. -/
  word : Option Word
  /-- FAULT.ea, the offending effective address of a data access; absent otherwise. -/
  ea : Option EffectiveAddress
deriving DecidableEq, Repr

/-- The register file: the selectable view x[0..8] (10_state.md R23). -/
inductive Reg where
  | a | i1 | i2 | i3 | i4 | i5 | i6 | x | j
deriving DecidableEq, Repr

/-- Memory: the bytes of the words M[0] to M[99] in one canonical form, the addresses strictly rising
and no zero byte listed. Byte k of word a, counted from the most significant byte (00_scope.md R8),
stands at 8 * a + k. DESIGN CHOICE (log entry 1): the machine itself has no byte addresses
(20_memory.md R52); words are read and written whole, in Ops.lean. -/
abbrev Memory := List Host.Cell

/-- The whole state (10_state.md R20 to R36). -/
structure State where
  /-- A, the accumulator (R20). -/
  a : Word
  /-- X, the extension register (R20). -/
  x : Word
  /-- I[1] (R21). -/
  i1 : Word
  /-- I[2] (R21). -/
  i2 : Word
  /-- I[3] (R21). -/
  i3 : Word
  /-- I[4] (R21). -/
  i4 : Word
  /-- I[5] (R21). -/
  i5 : Word
  /-- I[6] (R21). -/
  i6 : Word
  /-- J, the jump-return register (R22). -/
  j : Word
  /-- CI, the comparison flag (R26). -/
  ci : Comparison
  /-- The instruction pointer (R25). -/
  pc : Pc
  /-- STATUS (R30). -/
  status : RunStatus
  /-- FAULT; none while it is invalid (R31). -/
  fault : Option FaultRecord
  /-- M[0] to M[MEM_SIZE - 1] (R33). -/
  mem : Memory
deriving DecidableEq, Repr

/-- A stop outside the state. It has no constructor: every fatal condition of the spec is taken, with
STATUS and FAULT written, as a next state (60_exceptions.md R249, R253), and every word in every state
has an outcome (30_encoding.md R87). Nothing raises it. DEDUCED (log entry 2). -/
inductive Fault where
deriving DecidableEq, Repr

/-- A refusal by the model. -/
inductive Refusal where
  /-- An instruction the model gives no meaning; raised by an arm of `exec` that names it. Safe: it
  stops where the machine goes on. No arm raises it now. -/
  | notModelled (mnemonic : String)
deriving DecidableEq, Repr

/-- The machine after reset: the table of 10_state.md R36. No memory byte is listed, so every memory
word reads 0. -/
def State.reset : State where
  a := 0
  x := 0
  i1 := 0
  i2 := 0
  i3 := 0
  i4 := 0
  i5 := 0
  i6 := 0
  j := 0
  ci := .equal
  pc := Config.resetPc
  status := .running
  fault := none
  mem := []

end Sys2Proof.Machine
end

