-- ==== Sys2Proof/Machine/Ops.lean ====
section
/-! DEFINITION. The named operations over memory and registers, and taking a fatal condition. -/

namespace Sys2Proof.Machine

/-- What a step or a meaning answers. Every one of this machine's is a next state. -/
abbrev Result := Host.Outcome State Fault Refusal

/-! ### Memory, byte by byte

The bytes of the words in one canonical form (log entry 1). -/

/-- What an unlisted byte reads as: every memory word is 0 after reset (10_state.md R36). -/
def unlistedByte : Byte := 0

/-- The canonical form: addresses strictly rising. -/
def addressesRise : Memory → Bool
  | [] => true
  | [_] => true
  | c :: d :: rest => decide (c.1 < d.1) && addressesRise (d :: rest)

/-- An entry the canonical form admits: a byte of one of the MEM_SIZE words (20_memory.md R50), and not
the byte an unlisted address reads as. -/
def cellAdmitted (c : Host.Cell) : Bool := decide (c.1 < 8 * Config.memSize) && c.2 != unlistedByte

/-- The canonical form holds. -/
def Memory.wf (m : Memory) : Bool := addressesRise m && m.all cellAdmitted

/-- The byte at address `n`. -/
def readByte (m : Memory) (n : Nat) : Byte :=
  match m with
  | [] => unlistedByte
  | c :: rest => if c.1 = n then c.2 else readByte rest n

/-- `m` without the byte at address `n`. -/
def eraseByte (m : Memory) (n : Nat) : Memory :=
  match m with
  | [] => []
  | c :: rest => if c.1 = n then eraseByte rest n else c :: eraseByte rest n

/-- `m` with a cell put in before the first higher address. -/
def insertByte (m : Memory) (n : Nat) (b : Byte) : Memory :=
  match m with
  | [] => [(n, b)]
  | c :: rest => if n < c.1 then (n, b) :: c :: rest else c :: insertByte rest n b

/-- Write the byte at address `n`; the byte an unlisted address reads as leaves no entry. -/
def writeByte (m : Memory) (n : Nat) (b : Byte) : Memory :=
  if b = unlistedByte then eraseByte m n else insertByte (eraseByte m n) n b

/-! ### Memory, word by word -/

/-- Byte `k` of a word, counted from the most significant byte: byte 0 is w[63:56] (00_scope.md R8). -/
def wordByte (w : Word) (k : Nat) : Byte := w.extractLsb' ((delta% Config.wordBits) - 8 - 8 * k) 8

/-- M[a]: the eight bytes of word `a`, the most significant first (00_scope.md R8, 20_memory.md R52). -/
def readWord (m : Memory) (a : Nat) : Word :=
  readByte m (8 * a) ++ readByte m (8 * a + 1) ++ readByte m (8 * a + 2) ++ readByte m (8 * a + 3)
    ++ readByte m (8 * a + 4) ++ readByte m (8 * a + 5) ++ readByte m (8 * a + 6)
    ++ readByte m (8 * a + 7)

/-- M[a] <- w, all 64 bits (00_scope.md R11, 20_memory.md R54). -/
def writeWord (m : Memory) (a : Nat) (w : Word) : Memory :=
  [0, 1, 2, 3, 4, 5, 6, 7].foldl (fun m k => writeByte m (8 * a + k) (wordByte w k)) m

/-- The address names a word: it is below MEM_SIZE (20_memory.md R51, R56). -/
def inMemory (address : EffectiveAddress) : Bool := decide (address.toNat < Config.memSize)

/-- `MemRead(a, 1)`: none stands for its AddressFault (00_scope.md R11). -/
def memRead (address : EffectiveAddress) (s : State) : Option Word :=
  if inMemory address then some (readWord s.mem address.toNat) else none

/-- `MemWrite(a, 1, v)`: none stands for its AddressFault (00_scope.md R11). -/
def memWrite (address : EffectiveAddress) (value : Word) (s : State) : Option State :=
  if inMemory address then some { s with mem := writeWord s.mem address.toNat value } else none

/-! ### Registers -/

/-- `x[s]` read: all 64 bits of a register (00_scope.md R10, 10_state.md R23). -/
def State.read (s : State) : Reg → Word
  | .a => s.a
  | .i1 => s.i1
  | .i2 => s.i2
  | .i3 => s.i3
  | .i4 => s.i4
  | .i5 => s.i5
  | .i6 => s.i6
  | .x => s.x
  | .j => s.j

/-- `x[s] <- v`: all 64 bits of a register (00_scope.md R10, 10_state.md R23). -/
def State.write (s : State) (r : Reg) (v : Word) : State :=
  match r with
  | .a => { s with a := v }
  | .i1 => { s with i1 := v }
  | .i2 => { s with i2 := v }
  | .i3 => { s with i3 := v }
  | .i4 => { s with i4 := v }
  | .i5 => { s with i5 := v }
  | .i6 => { s with i6 := v }
  | .x => { s with x := v }
  | .j => { s with j := v }

/-- The index register I[k], for k in 1 to N_INDEX; there is no other (10_state.md R21). -/
def indexRegister (k : Nat) : Option Reg :=
  if Config.nIndex < k then none
  else
    match k with
    | 1 => some .i1
    | 2 => some .i2
    | 3 => some .i3
    | 4 => some .i4
    | 5 => some .i5
    | 6 => some .i6
    | _ => none

/-- `CI <- c` (10_state.md R26). -/
def setFlag (c : Comparison) (s : State) : State := { s with ci := c }

/-! ### The pc and the run state -/

/-- `pc <- pc + 1`, not reduced modulo MEM_SIZE (40_fetch_dispatch.md R106, 10_state.md R25). -/
def advance (s : State) : State := { s with pc := s.pc + 1 }

/-- `pc <- target`: a taken jump; the loop adds nothing (40_fetch_dispatch.md R106). -/
def jumpTo (target : EffectiveAddress) (s : State) : State := { s with pc := target }

/-- `J <- pc + 1`, the address after the jump instruction itself (45_jump.md R215). -/
def saveReturn (s : State) : State := { s with j := s.pc + 1 }

/-- `STATUS <- Halted` (40_fetch_dispatch.md R107). -/
def halt (s : State) : State := { s with status := .halted }

/-- The check after execution: a machine still running whose pc is 0 halts (40_fetch_dispatch.md R100,
R107). A step that raised has ended before it (00_scope.md R12). -/
def haltCheck (s : State) : State :=
  if s.status = .running ∧ s.pc = Config.haltAddr then halt s else s

/-! ### Fatal conditions -/

/-- `raise K(info)`: taking a fatal condition (60_exceptions.md R249, 00_scope.md R12). STATUS and
FAULT are written and nothing else. FAULT.word is M[pc] when the fetch succeeded, so it is absent
exactly when pc names no word; `ea` is given by a data access only. There is no return from it: Faulted
is terminal (R251). -/
def raise (cause : FaultCause) (ea : Option EffectiveAddress) (s : State) : State :=
  { s with
    status := .faulted
    fault := some { cause := cause, pc := s.pc, word := memRead s.pc s, ea := ea } }

/-- The spec's code of a kind (60_exceptions.md R240): a label, read by no instruction. -/
def FaultCause.code : FaultCause → Nat
  | .decodeFault => 1
  | .unimplemented => 2
  | .indexFault => 3
  | .addressFault => 4
  | .arithmeticFault => 5

/-- The spec's encoding of the run state (10_state.md R30): a label, read by no instruction. -/
def RunStatus.code : RunStatus → Nat
  | .running => 0
  | .halted => 1
  | .faulted => 2

end Sys2Proof.Machine
end

