-- ==== Sys2Proof/Machine/Cycle.lean ====
section
/-! DEFINITION. The step, over the meaning of an instruction (40_fetch_dispatch.md R100, R101, R102,
R107). -/

namespace Sys2Proof.Machine

/-- What the step adds after a handler: the check for pc = 0 (40_fetch_dispatch.md R107). -/
def afterExecution (r : Result) : Result :=
  match r with
  | .next s => .next (haltCheck s)
  | .fault f => .fault f
  | .refused f => .refused f

/-- Dispatch and execution of a fetched word (40_fetch_dispatch.md R102): a word that is no instruction
raises DecodeFault (60_exceptions.md R241). -/
def runWord (meaning : Instr → State → Result) (w : Word) (s : State) : Result :=
  match decode w with
  | .instr i => afterExecution (meaning i s)
  | .reject _ => .next (raise .decodeFault none s)

/-- A running machine: pc = 0 halts without a fetch, a pc at MEM_SIZE or above raises AddressFault at
fetch, and otherwise M[pc] is run (40_fetch_dispatch.md R100, R101). -/
def runningStep (meaning : Instr → State → Result) (s : State) : Result :=
  if s.pc = Config.haltAddr then .next (halt s)
  else
    match memRead s.pc s with
    | none => .next (raise .addressFault none s)
    | some w => runWord meaning w s

/-- One step; Halted and Faulted are terminal and a step there changes nothing (40_fetch_dispatch.md
R100, 10_state.md R30). -/
def cycle (meaning : Instr → State → Result) (s : State) : Result :=
  match s.status with
  | .running => runningStep meaning s
  | .halted => .next s
  | .faulted => .next s

/-- The memory with a word placed where the next fetch reads it; a pc that names no word has no such
place. -/
def placeAtPc (w : Word) (s : State) : State :=
  match memWrite s.pc w s with
  | some s' => s'
  | none => s

end Sys2Proof.Machine
end

