-- ==== Sys2Proof/Machine/Operands.lean ====
section
/-! DEFINITION. The operand forms: the two effective addresses, the word at an effective address, and
the order of the checks in front of an operation (40_fetch_dispatch.md R103 to R105). -/

namespace Sys2Proof.Machine

/-- `zext_64`: the address field extended with zero bits (00_scope.md R9, 30_encoding.md R74). -/
def zext64 (address : AddressField) : EffectiveAddress := address.setWidth (delta% Config.eaBits)

/-- The standard effective address (40_fetch_dispatch.md R104): index 0 adds nothing, index 1 to 6 adds
I[index] modulo 2^64; none stands for IndexFault. -/
def eaStd (address : AddressField) (index : IndexField) (s : State) : Option EffectiveAddress :=
  if index = 0 then some (zext64 address)
  else
    match indexRegister index.toNat with
    | some r => some (zext64 address + s.read r)
    | none => none

/-- The arithmetic effective address (40_fetch_dispatch.md R105): index 0 to 5 adds I[index + 1] modulo
2^64, and there is no unindexed form; none stands for IndexFault. -/
def eaArith (address : AddressField) (index : IndexField) (s : State) : Option EffectiveAddress :=
  match indexRegister (index.toNat + 1) with
  | some r => some (zext64 address + s.read r)
  | none => none

/-- Check the index field, then go on with the effective address (40_fetch_dispatch.md R103 (2),
60_exceptions.md R243). -/
def withAddress (ea : Option EffectiveAddress) (s : State)
    (goOn : EffectiveAddress → Result) : Result :=
  match ea with
  | some address => goOn address
  | none => .next (raise .indexFault none s)

/-- Check the index field, then the data access, then go on with the word at the effective address
(40_fetch_dispatch.md R103 (2) and (3), 60_exceptions.md R244 (a)). -/
def withOperand (ea : Option EffectiveAddress) (s : State) (goOn : Word → Result) : Result :=
  withAddress ea s fun address =>
    match memRead address s with
    | some value => goOn value
    | none => .next (raise .addressFault (some address) s)

end Sys2Proof.Machine
end

