-- ==== Sys2Proof/Machine/Arithmetic.lean ====
section
/-! DEFINITION. The arithmetic family, opcodes 1 to 4 (42_arithmetic.md). The modifier field is ignored
(30_encoding.md R83). -/

namespace Sys2Proof.Machine

/-- The family (42_arithmetic.md R160): the arithmetic effective address, the word there, the operation
on A and that word, and A alone written. `op` answers none where the operation raises ArithmeticFault. -/
def arithmetic (op : Word → Word → Option Word) (address : AddressField) (index : IndexField) (s : State) :
    Result :=
  withOperand (eaArith address index s) s fun v =>
    match op s.a v with
    | some result => .next (advance (s.write .a result))
    | none => .next (raise .arithmeticFault none s)

/-- `A /u v`, the floor of the unsigned quotient; the zero divisor has none (42_arithmetic.md R164,
R165). -/
def divide (a v : Word) : Option Word :=
  if v = 0 then none else some (a / v)

/-- ADD, add to A (42_arithmetic.md R161). (A + v) mod 2^64. -/
def execAdd (address : AddressField) (index : IndexField) (_modifier : ModifierField)
    (s : State) : Result :=
  arithmetic (fun a v => some (a + v)) address index s

/-- SUB, subtract from A (42_arithmetic.md R162). (A - v) mod 2^64. -/
def execSub (address : AddressField) (index : IndexField) (_modifier : ModifierField)
    (s : State) : Result :=
  arithmetic (fun a v => some (a - v)) address index s

/-- MUL, multiply A (42_arithmetic.md R163). The low 64 bits of the product. -/
def execMul (address : AddressField) (index : IndexField) (_modifier : ModifierField)
    (s : State) : Result :=
  arithmetic (fun a v => some (a * v)) address index s

/-- DIV, divide A (42_arithmetic.md R164). A zero divisor raises ArithmeticFault. -/
def execDiv (address : AddressField) (index : IndexField) (_modifier : ModifierField)
    (s : State) : Result :=
  arithmetic divide address index s

end Sys2Proof.Machine
end

