-- ==== Sys2Proof/Machine/Flags.lean ====
section
/-! DEFINITION. The comparison flag: its one computation, and the conditions that read it. -/

namespace Sys2Proof.Machine

/-- `cmp3(a, b)`: the three-way unsigned comparison (00_scope.md R9, 44_compare.md R200). -/
def cmp3 (a b : Word) : Comparison :=
  if a.toNat < b.toNat then .less else if a.toNat = b.toNat then .equal else .greater

/-- The conditions of the jump family (30_encoding.md R82). -/
inductive Condition where
  /-- Modifiers 0 and 1. -/
  | always
  /-- Modifier 4: CI = Less. -/
  | less
  /-- Modifier 5: CI = Equal. -/
  | equal
  /-- Modifier 6: CI = Greater. -/
  | greater
  /-- Modifier 7: CI != Less. -/
  | notLess
  /-- Modifier 8: CI != Equal. -/
  | notEqual
  /-- Modifier 9: CI != Greater. -/
  | notGreater
deriving DecidableEq, Repr

/-- The condition holds of the flag (45_jump.md R215). -/
def conditionHolds (c : Condition) (ci : Comparison) : Bool :=
  match c with
  | .always => true
  | .less => ci == .less
  | .equal => ci == .equal
  | .greater => ci == .greater
  | .notLess => ci != .less
  | .notEqual => ci != .equal
  | .notGreater => ci != .greater

end Sys2Proof.Machine
end

