-- ==== Sys2Proof/Machine/Compare.lean ====
section
/-! DEFINITION. The compare family, opcodes 56 to 63 (44_compare.md). The modifier field is ignored
(30_encoding.md R83). -/

namespace Sys2Proof.Machine

/-- The family (44_compare.md R200): CI becomes the unsigned comparison of the register, on the left,
with the word at the standard effective address. Nothing else is written. -/
def compareWith (r : Reg) (address : AddressField) (index : IndexField) (s : State) : Result :=
  withOperand (eaStd address index s) s fun v => .next (advance (setFlag (cmp3 (s.read r) v) s))

/-- CMPA, compare A with memory (44_compare.md R201). -/
def execCmpa (address : AddressField) (index : IndexField) (_modifier : ModifierField)
    (s : State) : Result :=
  compareWith .a address index s

/-- CMP1, compare I[1] with memory (44_compare.md R202). -/
def execCmp1 (address : AddressField) (index : IndexField) (_modifier : ModifierField)
    (s : State) : Result :=
  compareWith .i1 address index s

/-- CMP2, compare I[2] with memory (44_compare.md R203). -/
def execCmp2 (address : AddressField) (index : IndexField) (_modifier : ModifierField)
    (s : State) : Result :=
  compareWith .i2 address index s

/-- CMP3, compare I[3] with memory (44_compare.md R204). -/
def execCmp3 (address : AddressField) (index : IndexField) (_modifier : ModifierField)
    (s : State) : Result :=
  compareWith .i3 address index s

/-- CMP4, compare I[4] with memory (44_compare.md R205). -/
def execCmp4 (address : AddressField) (index : IndexField) (_modifier : ModifierField)
    (s : State) : Result :=
  compareWith .i4 address index s

/-- CMP5, compare I[5] with memory (44_compare.md R206). -/
def execCmp5 (address : AddressField) (index : IndexField) (_modifier : ModifierField)
    (s : State) : Result :=
  compareWith .i5 address index s

/-- CMP6, compare I[6] with memory (44_compare.md R207). -/
def execCmp6 (address : AddressField) (index : IndexField) (_modifier : ModifierField)
    (s : State) : Result :=
  compareWith .i6 address index s

/-- CMPX, compare X with memory (44_compare.md R208). -/
def execCmpx (address : AddressField) (index : IndexField) (_modifier : ModifierField)
    (s : State) : Result :=
  compareWith .x address index s

end Sys2Proof.Machine
end

