-- ==== Sys2Proof/Machine/IncDecEnter.lean ====
section
/-! DEFINITION. The increment, decrement and enter family, opcodes 48 to 55 (43_inc_dec_enter.md). -/

namespace Sys2Proof.Machine

/-- The family (43_inc_dec_enter.md R170): the operand is the standard effective address itself, as a
number; memory is not read. `op` takes the old value of the destination and the effective address. -/
def updateByAddress (op : Word → Word → Word) (r : Reg) (address : AddressField) (index : IndexField)
    (s : State) : Result :=
  withAddress (eaStd address index s) s fun ea => .next (advance (s.write r (op (s.read r) ea)))

/-- Modifier 0: the destination plus the effective address, modulo 2^64. -/
def incremented (old ea : Word) : Word := old + ea

/-- Modifier 1: the destination minus the effective address, modulo 2^64. -/
def decremented (old ea : Word) : Word := old - ea

/-- Modifier 2: the effective address, whatever the destination held. -/
def entered (_old ea : Word) : Word := ea

/-- INCA, increment A (43_inc_dec_enter.md R171). -/
def execInca (address : AddressField) (index : IndexField) (s : State) : Result :=
  updateByAddress incremented .a address index s

/-- DECA, decrement A (43_inc_dec_enter.md R172). -/
def execDeca (address : AddressField) (index : IndexField) (s : State) : Result :=
  updateByAddress decremented .a address index s

/-- ENTA, enter A (43_inc_dec_enter.md R173). -/
def execEnta (address : AddressField) (index : IndexField) (s : State) : Result :=
  updateByAddress entered .a address index s

/-- INC1, increment I[1] (43_inc_dec_enter.md R174). -/
def execInc1 (address : AddressField) (index : IndexField) (s : State) : Result :=
  updateByAddress incremented .i1 address index s

/-- DEC1, decrement I[1] (43_inc_dec_enter.md R175). -/
def execDec1 (address : AddressField) (index : IndexField) (s : State) : Result :=
  updateByAddress decremented .i1 address index s

/-- ENT1, enter I[1] (43_inc_dec_enter.md R176). -/
def execEnt1 (address : AddressField) (index : IndexField) (s : State) : Result :=
  updateByAddress entered .i1 address index s

/-- INC2, increment I[2] (43_inc_dec_enter.md R177). -/
def execInc2 (address : AddressField) (index : IndexField) (s : State) : Result :=
  updateByAddress incremented .i2 address index s

/-- DEC2, decrement I[2] (43_inc_dec_enter.md R178). -/
def execDec2 (address : AddressField) (index : IndexField) (s : State) : Result :=
  updateByAddress decremented .i2 address index s

/-- ENT2, enter I[2] (43_inc_dec_enter.md R179). -/
def execEnt2 (address : AddressField) (index : IndexField) (s : State) : Result :=
  updateByAddress entered .i2 address index s

/-- INC3, increment I[3] (43_inc_dec_enter.md R180). -/
def execInc3 (address : AddressField) (index : IndexField) (s : State) : Result :=
  updateByAddress incremented .i3 address index s

/-- DEC3, decrement I[3] (43_inc_dec_enter.md R181). -/
def execDec3 (address : AddressField) (index : IndexField) (s : State) : Result :=
  updateByAddress decremented .i3 address index s

/-- ENT3, enter I[3] (43_inc_dec_enter.md R182). -/
def execEnt3 (address : AddressField) (index : IndexField) (s : State) : Result :=
  updateByAddress entered .i3 address index s

/-- INC4, increment I[4] (43_inc_dec_enter.md R183). -/
def execInc4 (address : AddressField) (index : IndexField) (s : State) : Result :=
  updateByAddress incremented .i4 address index s

/-- DEC4, decrement I[4] (43_inc_dec_enter.md R184). -/
def execDec4 (address : AddressField) (index : IndexField) (s : State) : Result :=
  updateByAddress decremented .i4 address index s

/-- ENT4, enter I[4] (43_inc_dec_enter.md R185). -/
def execEnt4 (address : AddressField) (index : IndexField) (s : State) : Result :=
  updateByAddress entered .i4 address index s

/-- INC5, increment I[5] (43_inc_dec_enter.md R186). -/
def execInc5 (address : AddressField) (index : IndexField) (s : State) : Result :=
  updateByAddress incremented .i5 address index s

/-- DEC5, decrement I[5] (43_inc_dec_enter.md R187). -/
def execDec5 (address : AddressField) (index : IndexField) (s : State) : Result :=
  updateByAddress decremented .i5 address index s

/-- ENT5, enter I[5] (43_inc_dec_enter.md R188). -/
def execEnt5 (address : AddressField) (index : IndexField) (s : State) : Result :=
  updateByAddress entered .i5 address index s

/-- INC6, increment I[6] (43_inc_dec_enter.md R189). -/
def execInc6 (address : AddressField) (index : IndexField) (s : State) : Result :=
  updateByAddress incremented .i6 address index s

/-- DEC6, decrement I[6] (43_inc_dec_enter.md R190). -/
def execDec6 (address : AddressField) (index : IndexField) (s : State) : Result :=
  updateByAddress decremented .i6 address index s

/-- ENT6, enter I[6] (43_inc_dec_enter.md R191). -/
def execEnt6 (address : AddressField) (index : IndexField) (s : State) : Result :=
  updateByAddress entered .i6 address index s

/-- INCX, increment X (43_inc_dec_enter.md R192). -/
def execIncx (address : AddressField) (index : IndexField) (s : State) : Result :=
  updateByAddress incremented .x address index s

/-- DECX, decrement X (43_inc_dec_enter.md R193). -/
def execDecx (address : AddressField) (index : IndexField) (s : State) : Result :=
  updateByAddress decremented .x address index s

/-- ENTX, enter X (43_inc_dec_enter.md R194). -/
def execEntx (address : AddressField) (index : IndexField) (s : State) : Result :=
  updateByAddress entered .x address index s

end Sys2Proof.Machine
end

