-- ==== Sys2Proof/Machine/Jump.lean ====
section
/-! DEFINITION. The jump family, opcode 39, and the reserved opcode 40 (45_jump.md). -/

namespace Sys2Proof.Machine

/-- Whether a taken jump saves its return address in J (45_jump.md R215). -/
inductive Saving where
  | save
  | keep
deriving DecidableEq, Repr

/-- The state of a performed jump: J, where it is saved, then the pc (45_jump.md R215). The target is not
checked against MEM_SIZE. -/
def jumped (saving : Saving) (target : EffectiveAddress) (s : State) : State :=
  match saving with
  | .save => jumpTo target (saveReturn s)
  | .keep => jumpTo target s

/-- The family (45_jump.md R215): the index field is checked whether or not the jump is performed; a jump
not performed falls through to pc + 1 with J unchanged. -/
def jumpWhen (condition : Condition) (saving : Saving) (address : AddressField) (index : IndexField)
    (s : State) : Result :=
  withAddress (eaStd address index s) s fun ea =>
    if conditionHolds condition s.ci then .next (jumped saving ea s) else .next (advance s)

/-- JMP, jump and save J (45_jump.md R216). -/
def execJmp (address : AddressField) (index : IndexField) (s : State) : Result :=
  jumpWhen .always .save address index s

/-- JSJ, jump without saving J (45_jump.md R217). -/
def execJsj (address : AddressField) (index : IndexField) (s : State) : Result :=
  jumpWhen .always .keep address index s

/-- JL, jump if less (45_jump.md R218). -/
def execJl (address : AddressField) (index : IndexField) (s : State) : Result :=
  jumpWhen .less .save address index s

/-- JE, jump if equal (45_jump.md R219). -/
def execJe (address : AddressField) (index : IndexField) (s : State) : Result :=
  jumpWhen .equal .save address index s

/-- JG, jump if greater (45_jump.md R220). -/
def execJg (address : AddressField) (index : IndexField) (s : State) : Result :=
  jumpWhen .greater .save address index s

/-- JGE, jump if not less (45_jump.md R221). -/
def execJge (address : AddressField) (index : IndexField) (s : State) : Result :=
  jumpWhen .notLess .save address index s

/-- JNE, jump if not equal (45_jump.md R222). -/
def execJne (address : AddressField) (index : IndexField) (s : State) : Result :=
  jumpWhen .notEqual .save address index s

/-- JLE, jump if not greater (45_jump.md R223). -/
def execJle (address : AddressField) (index : IndexField) (s : State) : Result :=
  jumpWhen .notGreater .save address index s

/-- RESERVED40, the reserved opcode 40 (45_jump.md R224): raises Unimplemented on the opcode alone; no
other field is examined. -/
def execReserved40 (_address : AddressField) (_index : IndexField) (_modifier : ModifierField)
    (s : State) : Result :=
  .next (raise .unimplemented none s)

end Sys2Proof.Machine
end

