-- ==== Sys2Proof/Machine/LoadStore.lean ====
section
/-! DEFINITION. The load family, opcodes 8 to 15, and the store family, opcodes 24 to 33
(41_load_store.md). The modifier field is ignored (30_encoding.md R83). -/

namespace Sys2Proof.Machine

/-- The load family (41_load_store.md R130): the word at the standard effective address is copied whole
into a register. -/
def loadInto (r : Reg) (address : AddressField) (index : IndexField) (s : State) : Result :=
  withOperand (eaStd address index s) s fun v => .next (advance (s.write r v))

/-- The store family (41_load_store.md R140): the value replaces the whole word at the standard
effective address. -/
def storeValue (value : Word) (address : AddressField) (index : IndexField) (s : State) : Result :=
  withAddress (eaStd address index s) s fun ea =>
    match memWrite ea value s with
    | some s' => .next (advance s')
    | none => .next (raise .addressFault (some ea) s)

/-- LDA, load A (41_load_store.md R131). -/
def execLda (address : AddressField) (index : IndexField) (_modifier : ModifierField)
    (s : State) : Result :=
  loadInto .a address index s

/-- LD1, load I[1] (41_load_store.md R132). -/
def execLd1 (address : AddressField) (index : IndexField) (_modifier : ModifierField)
    (s : State) : Result :=
  loadInto .i1 address index s

/-- LD2, load I[2] (41_load_store.md R133). -/
def execLd2 (address : AddressField) (index : IndexField) (_modifier : ModifierField)
    (s : State) : Result :=
  loadInto .i2 address index s

/-- LD3, load I[3] (41_load_store.md R134). -/
def execLd3 (address : AddressField) (index : IndexField) (_modifier : ModifierField)
    (s : State) : Result :=
  loadInto .i3 address index s

/-- LD4, load I[4] (41_load_store.md R135). -/
def execLd4 (address : AddressField) (index : IndexField) (_modifier : ModifierField)
    (s : State) : Result :=
  loadInto .i4 address index s

/-- LD5, load I[5] (41_load_store.md R136). -/
def execLd5 (address : AddressField) (index : IndexField) (_modifier : ModifierField)
    (s : State) : Result :=
  loadInto .i5 address index s

/-- LD6, load I[6] (41_load_store.md R137). -/
def execLd6 (address : AddressField) (index : IndexField) (_modifier : ModifierField)
    (s : State) : Result :=
  loadInto .i6 address index s

/-- LDX, load X (41_load_store.md R138). -/
def execLdx (address : AddressField) (index : IndexField) (_modifier : ModifierField)
    (s : State) : Result :=
  loadInto .x address index s

/-- STA, store A (41_load_store.md R141). -/
def execSta (address : AddressField) (index : IndexField) (_modifier : ModifierField)
    (s : State) : Result :=
  storeValue (s.read .a) address index s

/-- ST1, store I[1] (41_load_store.md R142). -/
def execSt1 (address : AddressField) (index : IndexField) (_modifier : ModifierField)
    (s : State) : Result :=
  storeValue (s.read .i1) address index s

/-- ST2, store I[2] (41_load_store.md R143). -/
def execSt2 (address : AddressField) (index : IndexField) (_modifier : ModifierField)
    (s : State) : Result :=
  storeValue (s.read .i2) address index s

/-- ST3, store I[3] (41_load_store.md R144). -/
def execSt3 (address : AddressField) (index : IndexField) (_modifier : ModifierField)
    (s : State) : Result :=
  storeValue (s.read .i3) address index s

/-- ST4, store I[4] (41_load_store.md R145). -/
def execSt4 (address : AddressField) (index : IndexField) (_modifier : ModifierField)
    (s : State) : Result :=
  storeValue (s.read .i4) address index s

/-- ST5, store I[5] (41_load_store.md R146). -/
def execSt5 (address : AddressField) (index : IndexField) (_modifier : ModifierField)
    (s : State) : Result :=
  storeValue (s.read .i5) address index s

/-- ST6, store I[6] (41_load_store.md R147). -/
def execSt6 (address : AddressField) (index : IndexField) (_modifier : ModifierField)
    (s : State) : Result :=
  storeValue (s.read .i6) address index s

/-- STX, store X (41_load_store.md R148). -/
def execStx (address : AddressField) (index : IndexField) (_modifier : ModifierField)
    (s : State) : Result :=
  storeValue (s.read .x) address index s

/-- STJ, store J (41_load_store.md R149). -/
def execStj (address : AddressField) (index : IndexField) (_modifier : ModifierField)
    (s : State) : Result :=
  storeValue (s.read .j) address index s

/-- STZ, store zero (41_load_store.md R150). -/
def execStz (address : AddressField) (index : IndexField) (_modifier : ModifierField)
    (s : State) : Result :=
  storeValue 0 address index s

end Sys2Proof.Machine
end

