-- ==== Sys2Proof/Machine/Dispatch.lean ====
section
/-! DEFINITION. One arm per instruction. A meaning is the handler of the instruction with the advance of
the pc (40_fetch_dispatch.md R100); the check for pc = 0 after it is the step's. -/

namespace Sys2Proof.Machine

def exec (i : Instr) (s : State) : Host.Outcome State Fault Refusal :=
  match i with
  | .add address index modifier => Sys2Proof.Machine.execAdd address index modifier s
  | .sub address index modifier => Sys2Proof.Machine.execSub address index modifier s
  | .mul address index modifier => Sys2Proof.Machine.execMul address index modifier s
  | .div address index modifier => Sys2Proof.Machine.execDiv address index modifier s
  | .lda address index modifier => Sys2Proof.Machine.execLda address index modifier s
  | .ld1 address index modifier => Sys2Proof.Machine.execLd1 address index modifier s
  | .ld2 address index modifier => Sys2Proof.Machine.execLd2 address index modifier s
  | .ld3 address index modifier => Sys2Proof.Machine.execLd3 address index modifier s
  | .ld4 address index modifier => Sys2Proof.Machine.execLd4 address index modifier s
  | .ld5 address index modifier => Sys2Proof.Machine.execLd5 address index modifier s
  | .ld6 address index modifier => Sys2Proof.Machine.execLd6 address index modifier s
  | .ldx address index modifier => Sys2Proof.Machine.execLdx address index modifier s
  | .sta address index modifier => Sys2Proof.Machine.execSta address index modifier s
  | .st1 address index modifier => Sys2Proof.Machine.execSt1 address index modifier s
  | .st2 address index modifier => Sys2Proof.Machine.execSt2 address index modifier s
  | .st3 address index modifier => Sys2Proof.Machine.execSt3 address index modifier s
  | .st4 address index modifier => Sys2Proof.Machine.execSt4 address index modifier s
  | .st5 address index modifier => Sys2Proof.Machine.execSt5 address index modifier s
  | .st6 address index modifier => Sys2Proof.Machine.execSt6 address index modifier s
  | .stx address index modifier => Sys2Proof.Machine.execStx address index modifier s
  | .stj address index modifier => Sys2Proof.Machine.execStj address index modifier s
  | .stz address index modifier => Sys2Proof.Machine.execStz address index modifier s
  | .jmp address index => Sys2Proof.Machine.execJmp address index s
  | .jsj address index => Sys2Proof.Machine.execJsj address index s
  | .jl address index => Sys2Proof.Machine.execJl address index s
  | .je address index => Sys2Proof.Machine.execJe address index s
  | .jg address index => Sys2Proof.Machine.execJg address index s
  | .jge address index => Sys2Proof.Machine.execJge address index s
  | .jne address index => Sys2Proof.Machine.execJne address index s
  | .jle address index => Sys2Proof.Machine.execJle address index s
  | .reserved40 address index modifier => Sys2Proof.Machine.execReserved40 address index modifier s
  | .inca address index => Sys2Proof.Machine.execInca address index s
  | .deca address index => Sys2Proof.Machine.execDeca address index s
  | .enta address index => Sys2Proof.Machine.execEnta address index s
  | .inc1 address index => Sys2Proof.Machine.execInc1 address index s
  | .dec1 address index => Sys2Proof.Machine.execDec1 address index s
  | .ent1 address index => Sys2Proof.Machine.execEnt1 address index s
  | .inc2 address index => Sys2Proof.Machine.execInc2 address index s
  | .dec2 address index => Sys2Proof.Machine.execDec2 address index s
  | .ent2 address index => Sys2Proof.Machine.execEnt2 address index s
  | .inc3 address index => Sys2Proof.Machine.execInc3 address index s
  | .dec3 address index => Sys2Proof.Machine.execDec3 address index s
  | .ent3 address index => Sys2Proof.Machine.execEnt3 address index s
  | .inc4 address index => Sys2Proof.Machine.execInc4 address index s
  | .dec4 address index => Sys2Proof.Machine.execDec4 address index s
  | .ent4 address index => Sys2Proof.Machine.execEnt4 address index s
  | .inc5 address index => Sys2Proof.Machine.execInc5 address index s
  | .dec5 address index => Sys2Proof.Machine.execDec5 address index s
  | .ent5 address index => Sys2Proof.Machine.execEnt5 address index s
  | .inc6 address index => Sys2Proof.Machine.execInc6 address index s
  | .dec6 address index => Sys2Proof.Machine.execDec6 address index s
  | .ent6 address index => Sys2Proof.Machine.execEnt6 address index s
  | .incx address index => Sys2Proof.Machine.execIncx address index s
  | .decx address index => Sys2Proof.Machine.execDecx address index s
  | .entx address index => Sys2Proof.Machine.execEntx address index s
  | .cmpa address index modifier => Sys2Proof.Machine.execCmpa address index modifier s
  | .cmp1 address index modifier => Sys2Proof.Machine.execCmp1 address index modifier s
  | .cmp2 address index modifier => Sys2Proof.Machine.execCmp2 address index modifier s
  | .cmp3 address index modifier => Sys2Proof.Machine.execCmp3 address index modifier s
  | .cmp4 address index modifier => Sys2Proof.Machine.execCmp4 address index modifier s
  | .cmp5 address index modifier => Sys2Proof.Machine.execCmp5 address index modifier s
  | .cmp6 address index modifier => Sys2Proof.Machine.execCmp6 address index modifier s
  | .cmpx address index modifier => Sys2Proof.Machine.execCmpx address index modifier s

end Sys2Proof.Machine
end

