-- ==== Sys2Proof/Machine/Step.lean ====
section
/-! DEFINITION. The step of the machine, and the host's placing of an instruction where it fetches. -/

namespace Sys2Proof.Machine

/-- One step of the machine (40_fetch_dispatch.md R100). -/
def step (s : State) : Host.Outcome State Fault Refusal := cycle exec s

/-- `s` with the instruction of bits `w` placed at M[pc], where the next step fetches; the bits from
`nbits` up are 0. It stands for the host's load of a program word (70_reset_and_hazards.md R272, R276;
log entry 3). -/
def State.withFetchWord (s : State) (nbits w : Nat) : State :=
  placeAtPc (BitVec.ofNat (delta% Config.wordBits) (w % 2 ^ nbits)) s

end Sys2Proof.Machine
end

