-- ==== Sys2Proof/Machine/HostInterface.lean ====
section
/-! DEFINITION. The host's operations beside `step` (70_reset_and_hazards.md R276). `reset` is State.reset,
and `inspect` reads the state, which is plain data. No step performs any of them. -/

namespace Sys2Proof.Machine

/-- `load(a, w)` for a in 0 to MEM_SIZE - 1: `M[a] <- w` and nothing else (R276). -/
def load (a : Fin Config.memSize) (w : Word) (s : State) : State :=
  { s with mem := writeWord s.mem a.val w }

/-- The states in which a run may begin: reset, then loads, before any step (R272, R276, D16). -/
def loaded (program : List (Fin Config.memSize × Word)) : State :=
  program.foldl (fun s cell => load cell.1 cell.2 s) State.reset

/-- `run()` under fuel: steps until STATUS is not Running (40_fetch_dispatch.md R108). It answers the
state it stopped in, which is still Running where the fuel ran out. -/
def run (fuel : Nat) (s : State) : Result :=
  match fuel with
  | 0 => .next s
  | n + 1 =>
    match s.status with
    | .running =>
      match step s with
      | .next t => run n t
      | .fault f => .fault f
      | .refused f => .refused f
    | .halted => .next s
    | .faulted => .next s

end Sys2Proof.Machine
end

