-- ==== Sys2Proof/Safety.lean ====
section
/-! DEFINITION. What claims about a run are stated in: how a run ends, and the invariant of the states
(40_fetch_dispatch.md R109, 60_exceptions.md R251, 10_state.md R31, R35). -/

namespace Sys2Proof.Machine

/-- The run has ended (40_fetch_dispatch.md R109). -/
def State.ended (s : State) : Bool := s.status != .running

/-- The program ran to completion: STATUS is Halted. A faulted state is never completion
(60_exceptions.md R251). -/
def State.completed (s : State) : Bool := s.status == .halted

/-- `t` is reached from `s` by some number of steps (40_fetch_dispatch.md R108). -/
def Reaches (s t : State) : Prop := ∃ n, Host.Core.run Sys2Proof.core n s = .next t

/-- FAULT describes the state it stands in (10_state.md R31, 60_exceptions.md R249): its pc is the pc, its
word is M[pc] and is absent when pc names no word, and an effective address is recorded for an
AddressFault of a data access and for nothing else, and names no word. -/
structure FaultRecord.Describes (r : FaultRecord) (s : State) : Prop where
  pc_eq : r.pc = s.pc
  word_eq : r.word = memRead s.pc s
  word_absent : r.word = none → r.cause = .addressFault
  ea_present : r.ea.isSome ↔ r.cause = .addressFault ∧ r.word.isSome
  ea_outside : ∀ ea, r.ea = some ea → Config.memSize ≤ ea.toNat

/-- What holds at every step boundary. -/
structure State.Inv (s : State) : Prop where
  /-- Memory keeps its canonical form, so it holds exactly the words of M[0] to M[MEM_SIZE - 1]. -/
  mem_wf : s.mem.wf = true
  /-- Halted implies pc = 0 (10_state.md R35 (d)). -/
  halted_pc : s.status = .halted → s.pc = Config.haltAddr
  /-- Running implies pc != 0 (10_state.md R35 (d)). -/
  running_pc : s.status = .running → s.pc ≠ Config.haltAddr
  /-- FAULT is valid exactly when STATUS is Faulted (10_state.md R31). -/
  fault_valid : s.status = .faulted ↔ s.fault.isSome
  /-- FAULT describes the faulted state. -/
  fault_describes : ∀ r, s.fault = some r → r.Describes s

end Sys2Proof.Machine
end

