-- ==== Sys2Proof/WellFormed.lean ====
section
/-! DEFINITION. When an instruction is well formed: its index field selects what the invariant of
10_state.md R35 (b) asks for. The widths of the fields are already in their types. A word whose index
field breaks the check still decodes (30_encoding.md R72); running it raises IndexFault
(60_exceptions.md R243), so the check is a premise of no step. -/

namespace Sys2Proof

/-- The index field is meaningful for the given form: 0 to 6 in the standard form, 0 to 5 in the
arithmetic form (30_encoding.md R75); the reserved opcode examines no field (45_jump.md R224). -/
def indexInRange (form : Indexing) (index : IndexField) : Bool :=
  match form with
  | .standard => decide (index.toNat ≤ Config.nIndex)
  | .arithmetic => decide (index.toNat < Config.nIndex)
  | .unexamined => true

/-- The well-formed instructions (10_state.md R35 (b), 30_encoding.md R75). -/
def Instr.wellFormed (i : Instr) : Bool := indexInRange i.indexing i.index

end Sys2Proof
end

