-- ==== Sys2Proof/Certificates/Slice0/Obligations.lean ====
section
/-! DEFINITION. The statements about the model. `raise` is the model's operation for 60_exceptions.md
R249; TakingAFaultWritesStatusAndReport says what it does. Where a docstring names D4, D5, D7, D12, D13 or
another D, the clause rests on that decision of the spec (92_eei_decisions.md), not on its source. -/

namespace Sys2Proof.Statements

open Sys2Proof Sys2Proof.Machine

/-! ### Vocabulary -/

/-- M[address]. -/
def wordAt (address : Word) (s : State) : Word := readWord s.mem address.toNat

/-- The machine runs and its next fetch reads `w`. -/
def Fetches (w : Word) (s : State) : Prop :=
  s.status = .running ∧ s.pc ≠ 0 ∧ s.pc.toNat < Config.memSize ∧ wordAt s.pc s = w

/-- The effective address of an instruction, in its family's form (40_fetch_dispatch.md R104, R105). -/
def effectiveAddress (i : Instr) (s : State) : Option Word :=
  match i.indexing with
  | .standard => eaStd i.address i.index s
  | .arithmetic => eaArith i.address i.index s
  | .unexamined => none

/-- `exec i s` is a next state in which register `r` holds the number `n`, the pc has advanced by one,
and every other register, CI, STATUS, FAULT and memory are as before. -/
def Sets (i : Instr) (s : State) (r : Reg) (n : Nat) : Prop :=
  ∃ t, exec i s = .next t ∧ (t.read r).toNat = n ∧ (∀ q, q ≠ r → t.read q = s.read q) ∧
    t.ci = s.ci ∧ t.pc = s.pc + 1 ∧ t.status = s.status ∧ t.fault = s.fault ∧ t.mem = s.mem

/-- `exec i s` is a next state in which M[ea] is `value`, every byte of every other word is as before,
the pc has advanced by one, and every register, CI, STATUS and FAULT are as before. -/
def Stores (i : Instr) (s : State) (ea value : Word) : Prop :=
  ∃ t, exec i s = .next t ∧ t = { s with mem := t.mem, pc := s.pc + 1 } ∧ wordAt ea t = value ∧
    ∀ n, n / 8 ≠ ea.toNat → readByte t.mem n = readByte s.mem n

/-- `exec i s` is a next state in which CI is the unsigned comparison of `left` with `right`, the pc has
advanced by one, and nothing else has changed. -/
def Compares (i : Instr) (s : State) (left right : Word) : Prop :=
  ∃ t, exec i s = .next t ∧ t = { s with ci := t.ci, pc := s.pc + 1 } ∧
    (t.ci = .less ↔ left.toNat < right.toNat) ∧ (t.ci = .equal ↔ left.toNat = right.toNat) ∧
    (t.ci = .greater ↔ left.toNat > right.toNat)

/-- A jump that saves: taken, J is the address after the jump and the pc the target; not taken, the pc
advances by one and J keeps. -/
def savedJump (taken : Prop) [Decidable taken] (target : Word) (s : State) : State :=
  if taken then { s with j := s.pc + 1, pc := target } else { s with pc := s.pc + 1 }

/-- Whether opcode 39 with modifier `m` jumps on the flag `ci` (30_encoding.md R82). -/
def jumpTaken (m : Nat) (ci : Comparison) : Bool :=
  match m with
  | 0 => true
  | 1 => true
  | 4 => ci == .less
  | 5 => ci == .equal
  | 6 => ci == .greater
  | 7 => ci != .less
  | 8 => ci != .equal
  | 9 => ci != .greater
  | _ => false

/-- The opcode of an instruction as a number. -/
def opNumber (i : Instr) : Nat := (opcodeOf i).toNat

/-- The modifier of an instruction as a number. -/
def modNumber (i : Instr) : Nat := (modifierOf i).toNat

/-- Opcodes 1 to 4, 8 to 15, 24 to 33 and 56 to 63: the instructions that make a data access
(20_memory.md R50). -/
def accessesMemory (op : Nat) : Bool :=
  decide (1 ≤ op ∧ op ≤ 4) || decide (8 ≤ op ∧ op ≤ 15) || decide (24 ≤ op ∧ op ≤ 33) ||
    decide (56 ≤ op ∧ op ≤ 63)

/-- The one register an instruction may write beside the pc; JMP and the conditional jumps write J
(10_state.md R20 to R22). -/
def destination : Instr → Option Reg
  | .add _ _ _ | .sub _ _ _ | .mul _ _ _ | .div _ _ _
  | .lda _ _ _ | .inca _ _ | .deca _ _ | .enta _ _ => some .a
  | .ldx _ _ _ | .incx _ _ | .decx _ _ | .entx _ _ => some .x
  | .jmp _ _ | .jl _ _ | .je _ _ | .jg _ _
  | .jge _ _ | .jne _ _ | .jle _ _ => some .j
  | .ld1 _ _ _ | .inc1 _ _ | .dec1 _ _ | .ent1 _ _ => some .i1
  | .ld2 _ _ _ | .inc2 _ _ | .dec2 _ _ | .ent2 _ _ => some .i2
  | .ld3 _ _ _ | .inc3 _ _ | .dec3 _ _ | .ent3 _ _ => some .i3
  | .ld4 _ _ _ | .inc4 _ _ | .dec4 _ _ | .ent4 _ _ => some .i4
  | .ld5 _ _ _ | .inc5 _ _ | .dec5 _ _ | .ent5 _ _ => some .i5
  | .ld6 _ _ _ | .inc6 _ _ | .dec6 _ _ | .ent6 _ _ => some .i6
  | .sta _ _ _ | .st1 _ _ _ | .st2 _ _ _ | .st3 _ _ _
  | .st4 _ _ _ | .st5 _ _ _ | .st6 _ _ _ | .stx _ _ _
  | .stj _ _ _ | .stz _ _ _ | .jsj _ _ | .reserved40 _ _ _
  | .cmpa _ _ _ | .cmp1 _ _ _ | .cmp2 _ _ _ | .cmp3 _ _ _
  | .cmp4 _ _ _ | .cmp5 _ _ _ | .cmp6 _ _ _ | .cmpx _ _ _ => none

/-- The address a store writes to (41_load_store.md R140); no other instruction stores. -/
def storeTarget (i : Instr) (s : State) : Option Word :=
  if 24 ≤ opNumber i ∧ opNumber i ≤ 33 then eaStd i.address i.index s else none

/-- The store of a register (41_load_store.md R140). -/
def storeOf (r : Reg) (address : AddressField) (index modifier : Byte) : Option Instr :=
  match r with
  | .a => some (.sta address index modifier)
  | .i1 => some (.st1 address index modifier)
  | .i2 => some (.st2 address index modifier)
  | .i3 => some (.st3 address index modifier)
  | .i4 => some (.st4 address index modifier)
  | .i5 => some (.st5 address index modifier)
  | .i6 => some (.st6 address index modifier)
  | .x => some (.stx address index modifier)
  | .j => some (.stj address index modifier)

/-- The load of a register; there is none of J (41_load_store.md R130). -/
def loadOf (r : Reg) (address : AddressField) (index modifier : Byte) : Option Instr :=
  match r with
  | .a => some (.lda address index modifier)
  | .i1 => some (.ld1 address index modifier)
  | .i2 => some (.ld2 address index modifier)
  | .i3 => some (.ld3 address index modifier)
  | .i4 => some (.ld4 address index modifier)
  | .i5 => some (.ld5 address index modifier)
  | .i6 => some (.ld6 address index modifier)
  | .x => some (.ldx address index modifier)
  | .j => none

/-- The compare of a register; there is none of J (44_compare.md R200). -/
def compareOf (r : Reg) (address : AddressField) (index modifier : Byte) : Option Instr :=
  match r with
  | .a => some (.cmpa address index modifier)
  | .i1 => some (.cmp1 address index modifier)
  | .i2 => some (.cmp2 address index modifier)
  | .i3 => some (.cmp3 address index modifier)
  | .i4 => some (.cmp4 address index modifier)
  | .i5 => some (.cmp5 address index modifier)
  | .i6 => some (.cmp6 address index modifier)
  | .x => some (.cmpx address index modifier)
  | .j => none

/-- The enter of a register; there is none of J (43_inc_dec_enter.md R170). -/
def enterOf (r : Reg) (address : AddressField) (index : Byte) : Option Instr :=
  match r with
  | .a => some (.enta address index)
  | .i1 => some (.ent1 address index)
  | .i2 => some (.ent2 address index)
  | .i3 => some (.ent3 address index)
  | .i4 => some (.ent4 address index)
  | .i5 => some (.ent5 address index)
  | .i6 => some (.ent6 address index)
  | .x => some (.entx address index)
  | .j => none

/-! ### A reference machine

The step of 40_fetch_dispatch.md R100 written once more, straight from the pseudocode of the families over
the numbers of the fields and the selector `opcode - base` (10_state.md R23), with no decoder and no
instruction type. -/

/-- `x[k]`. -/
def refRegister (k : Nat) : Reg :=
  match k with
  | 0 => .a
  | 1 => .i1
  | 2 => .i2
  | 3 => .i3
  | 4 => .i4
  | 5 => .i5
  | 6 => .i6
  | 7 => .x
  | _ => .j

/-- The number in `x[k]`. -/
def refValue (s : State) (k : Nat) : Nat := (s.read (refRegister k)).toNat

/-- `x[k] <- n` modulo 2^64, and the pc advances. -/
def refSet (s : State) (k n : Nat) : State :=
  { s.write (refRegister k) (BitVec.ofNat 64 n) with pc := BitVec.ofNat 64 (s.pc.toNat + 1) }

/-- `raise`, with everything it records given. -/
def refRaise (cause : FaultCause) (word ea : Option Word) (s : State) : State :=
  { s with
    status := .faulted
    fault := some { cause := cause, pc := s.pc, word := word, ea := ea } }

/-- EA_arith for `arith`, EA_std otherwise, as a number (40_fetch_dispatch.md R104, R105). -/
def refAddress (arith : Bool) (address index : Nat) (s : State) : Option Nat :=
  if arith then
    if index ≤ 5 then some ((address + refValue s (index + 1)) % 2 ^ 64) else none
  else if index = 0 then some address
  else if index ≤ 6 then some ((address + refValue s index) % 2 ^ 64)
  else none

/-- Opcode 39 (45_jump.md R215), with the halt check of R107. -/
def refJump (modifier ea : Nat) (s : State) : State :=
  if jumpTaken modifier s.ci then
    { s with
      j := if modifier = 1 then s.j else BitVec.ofNat 64 (s.pc.toNat + 1)
      pc := BitVec.ofNat 64 ea
      status := if ea = 0 then .halted else .running }
  else { s with pc := BitVec.ofNat 64 (s.pc.toNat + 1) }

/-- Opcodes 48 to 55 (43_inc_dec_enter.md R170). -/
def refIncDecEnter (k modifier ea : Nat) (s : State) : State :=
  refSet s k
    (if modifier = 0 then refValue s k + ea
     else if modifier = 1 then refValue s k + (2 ^ 64 - ea)
     else ea)

/-- Opcodes 1 to 4 (42_arithmetic.md R160) on the memory operand `v`. -/
def refArithmetic (opcode v : Nat) (w : Word) (s : State) : State :=
  if opcode = 4 ∧ v = 0 then refRaise .arithmeticFault (some w) none s
  else
    refSet s 0
      (if opcode = 1 then refValue s 0 + v
       else if opcode = 2 then refValue s 0 + (2 ^ 64 - v)
       else if opcode = 3 then refValue s 0 * v
       else refValue s 0 / v)

/-- The instructions that access memory, at an address inside it. -/
def refAccess (opcode ea : Nat) (w : Word) (s : State) : State :=
  let v := (readWord s.mem ea).toNat
  if opcode ≤ 4 then refArithmetic opcode v w s
  else if opcode ≤ 15 then refSet s (opcode - 8) v
  else if opcode ≤ 33 then
    { s with
      mem := writeWord s.mem ea (if opcode = 33 then 0 else s.read (refRegister (opcode - 24)))
      pc := BitVec.ofNat 64 (s.pc.toNat + 1) }
  else
    { s with
      ci :=
        if refValue s (opcode - 56) < v then .less
        else if refValue s (opcode - 56) = v then .equal
        else .greater
      pc := BitVec.ofNat 64 (s.pc.toNat + 1) }

/-- Dispatch, modifier check, effective address, access and operation, in that order
(40_fetch_dispatch.md R102, R103; 60_exceptions.md R247). -/
def refWord (w : Word) (s : State) : State :=
  let opcode := w.toNat % 2 ^ 8
  let modifier := w.toNat / 2 ^ 8 % 2 ^ 8
  let index := w.toNat / 2 ^ 16 % 2 ^ 8
  let address := w.toNat / 2 ^ 24
  if opcode = 40 then refRaise .unimplemented (some w) none s
  else if ¬(accessesMemory opcode ∨ opcode = 39 ∨ (48 ≤ opcode ∧ opcode ≤ 55)) then
    refRaise .decodeFault (some w) none s
  else if (opcode = 39 ∧ modifier ∉ [0, 1, 4, 5, 6, 7, 8, 9]) ∨
      (48 ≤ opcode ∧ opcode ≤ 55 ∧ 2 < modifier) then refRaise .decodeFault (some w) none s
  else
    match refAddress (decide (opcode ≤ 4)) address index s with
    | none => refRaise .indexFault (some w) none s
    | some ea =>
      if opcode = 39 then refJump modifier ea s
      else if 48 ≤ opcode ∧ opcode ≤ 55 then refIncDecEnter (opcode - 48) modifier ea s
      else if Config.memSize ≤ ea then refRaise .addressFault (some w) (some (BitVec.ofNat 64 ea)) s
      else refAccess opcode ea w s

/-- The step of the reference machine (40_fetch_dispatch.md R100). -/
def refStep (s : State) : State :=
  if s.status ≠ .running then s
  else if s.pc.toNat = 0 then { s with status := .halted }
  else if Config.memSize ≤ s.pc.toNat then refRaise .addressFault none none s
  else refWord (wordAt s.pc s) s

end Sys2Proof.Statements

open Sys2Proof Sys2Proof.Machine Sys2Proof.Statements

/-! ### State, words and decoding -/

/-- 10_state.md R36: the reset value of every piece of state. -/
def Obligations.ResetLeavesTheStatedValues : Prop :=
  State.reset.a = 0 ∧ State.reset.x = 0 ∧ State.reset.j = 0 ∧
    State.reset.i1 = 0 ∧ State.reset.i2 = 0 ∧ State.reset.i3 = 0 ∧
    State.reset.i4 = 0 ∧ State.reset.i5 = 0 ∧ State.reset.i6 = 0 ∧
    State.reset.ci = .equal ∧ State.reset.pc = 1 ∧ State.reset.status = .running ∧
    State.reset.fault = none ∧ Config.memSize = 100 ∧ ∀ a, readWord State.reset.mem a = 0

/-- 30_encoding.md R71: the four field extractions, as numbers, and `fields`. -/
def Obligations.FieldsOfAWord : Prop :=
  ∀ w : Word,
    (opcodeField w).toNat = w.toNat % 2 ^ 8 ∧
      (modifierField w).toNat = w.toNat / 2 ^ 8 % 2 ^ 8 ∧
      (indexField w).toNat = w.toNat / 2 ^ 16 % 2 ^ 8 ∧
      (addressField w).toNat = w.toNat / 2 ^ 24 ∧
      (addressField w).toNat < 2 ^ 40 ∧
      fields w = (addressField w, indexField w, modifierField w, opcodeField w)

/-- 30_encoding.md section 1, the encoding formula and its round trip (95_test_vectors.md S1). -/
def Obligations.FieldsRebuildTheWord : Prop :=
  (∀ w : Word, assemble (addressField w) (indexField w) (modifierField w) (opcodeField w) = w) ∧
    ∀ (address : AddressField) (index modifier opcode : Byte),
      (assemble address index modifier opcode).toNat =
        address.toNat * 2 ^ 24 + index.toNat * 2 ^ 16 + modifier.toNat * 2 ^ 8 + opcode.toNat

/-- 30_encoding.md sections 1 and 3: no field of an encoding is dropped. Holds of every instruction, ill-formed index
fields included (R72). -/
def Obligations.DecodeOfEncodeIsTheInstruction : Prop :=
  ∀ i : Instr, decode (encode i) = .instr i

/-- 30_encoding.md sections 1 and 3: an instruction stands for one word only. -/
def Obligations.EncodeOfDecodeIsTheWord : Prop :=
  ∀ (w : Word) (i : Instr), decode w = .instr i → encode i = w

/-- 30_encoding.md section 4, the summary of every (opcode, modifier) pair, which the spec marks as derived. Opcode 40 is a
row of the table, so it decodes; running it raises Unimplemented. -/
def Obligations.LegalWordsAreTheListedPairs : Prop :=
  ∀ w : Word, (∃ i, decode w = .instr i) ↔
    (accessesMemory (w.toNat % 2 ^ 8) ∨ w.toNat % 2 ^ 8 = 40 ∨
      (w.toNat % 2 ^ 8 = 39 ∧ w.toNat / 2 ^ 8 % 2 ^ 8 ∈ [0, 1, 4, 5, 6, 7, 8, 9]) ∨
      (48 ≤ w.toNat % 2 ^ 8 ∧ w.toNat % 2 ^ 8 ≤ 55 ∧ w.toNat / 2 ^ 8 % 2 ^ 8 ≤ 2))

/-- Words written out in the examples of the spec: 42_arithmetic.md R166, 60_exceptions.md R247, 41_load_store.md R132, R141,
R149, 45_jump.md R217, R222, 43_inc_dec_enter.md R178, R192, 44_compare.md R207, 95_test_vectors.md F10, F24. -/
def Obligations.WordsOfTheSpecDecode : Prop :=
  decode 0x0000000000000001 = .instr (.add 0 0 0) ∧
    decode 0x000000000C050001 = .instr (.add 12 5 0) ∧
    decode 0x00000000C8090004 = .instr (.div 200 9 0) ∧
    decode 0x0000000014010009 = .instr (.ld1 20 1 0) ∧
    decode 0x000000001400EE08 = .instr (.lda 20 0 0xEE) ∧
    decode 0x000000000B010018 = .instr (.sta 11 1 0) ∧
    decode 0x0000000032000020 = .instr (.stj 50 0 0) ∧
    decode 0x0000000000060127 = .instr (.jsj 0 6) ∧
    decode 0x0000000001000827 = .instr (.jne 1 0) ∧
    decode 0x0000000014C80928 = .instr (.reserved40 20 200 9) ∧
    decode 0x0000000001000132 = .instr (.dec2 1 0) ∧
    decode 0xFFFFFFFFFF000037 = .instr (.incx 1099511627775 0) ∧
    decode 0x000000002806003E = .instr (.cmp6 40 6 0)

/-! ### Words that are no instruction -/

/-- 30_encoding.md R84. The second clause is the all-zero word that reset leaves in every cell. -/
def Obligations.IllegalOpcodesRaiseDecodeFault : Prop :=
  (∀ (w : Word) (s : State), Fetches w s →
    (w.toNat % 2 ^ 8 = 0 ∨ (5 ≤ w.toNat % 2 ^ 8 ∧ w.toNat % 2 ^ 8 ≤ 7) ∨
      (16 ≤ w.toNat % 2 ^ 8 ∧ w.toNat % 2 ^ 8 ≤ 23) ∨ (34 ≤ w.toNat % 2 ^ 8 ∧ w.toNat % 2 ^ 8 ≤ 38) ∨
      64 ≤ w.toNat % 2 ^ 8) →
    step s = .next (raise .decodeFault none s)) ∧
  ∀ s : State, Fetches 0 s → step s = .next (raise .decodeFault none s)

/-- 45_jump.md R225. -/
def Obligations.UnlistedJumpRangeOpcodesRaiseDecodeFault : Prop :=
  FaultCause.decodeFault.code = 1 ∧
    ∀ (w : Word) (s : State), Fetches w s → 41 ≤ w.toNat % 2 ^ 8 → w.toNat % 2 ^ 8 ≤ 47 →
      step s = .next (raise .decodeFault none s)

/-- 45_jump.md R226 and 43_inc_dec_enter.md R195: whatever the index field and CI hold. -/
def Obligations.UnlistedModifiersRaiseDecodeFault : Prop :=
  ∀ (w : Word) (s : State), Fetches w s →
    ((w.toNat % 2 ^ 8 = 39 ∧
        (w.toNat / 2 ^ 8 % 2 ^ 8 = 2 ∨ w.toNat / 2 ^ 8 % 2 ^ 8 = 3 ∨ 10 ≤ w.toNat / 2 ^ 8 % 2 ^ 8)) ∨
      (48 ≤ w.toNat % 2 ^ 8 ∧ w.toNat % 2 ^ 8 ≤ 55 ∧ 3 ≤ w.toNat / 2 ^ 8 % 2 ^ 8)) →
    step s = .next (raise .decodeFault none s)

/-- 45_jump.md section 3, opcode 40. That no other field is examined is the decision D22 of the spec. Taking Unimplemented is
the own effect of RESERVED40. -/
def Obligations.ReservedOpcodeRaisesUnimplemented : Prop :=
  (∀ (address : AddressField) (index modifier : Byte) (s : State),
    exec (.reserved40 address index modifier) s = .next (raise .unimplemented none s)) ∧
  ∀ (w : Word) (s : State), Fetches w s → w.toNat % 2 ^ 8 = 40 →
    step s = .next (raise .unimplemented none s)

/-- 60_exceptions.md section 3, entry; the layout of FAULT and the absence of other effects are the decisions D12 and D13. -/
def Obligations.TakingAFaultWritesStatusAndReport : Prop :=
  ∀ (cause : FaultCause) (ea : Option Word) (s : State),
    raise cause ea s =
      { s with
        status := .faulted
        fault := some
          { cause := cause
            pc := s.pc
            word := if s.pc.toNat < Config.memSize then some (wordAt s.pc s) else none
            ea := ea } }

/-! ### Operand forms and the flag -/

/-- 40_fetch_dispatch.md section 2, standard form; the sum modulo 2^64 and the fault of index 7 to 255 are D3 and D7. -/
def Obligations.StandardEffectiveAddress : Prop :=
  ∀ (address : AddressField) (index : Byte) (s : State),
    (index.toNat = 0 → ∃ ea, eaStd address index s = some ea ∧ ea.toNat = address.toNat) ∧
    (index.toNat = 1 → ∃ ea, eaStd address index s = some ea ∧
      ea.toNat = (address.toNat + s.i1.toNat) % 2 ^ 64) ∧
    (index.toNat = 2 → ∃ ea, eaStd address index s = some ea ∧
      ea.toNat = (address.toNat + s.i2.toNat) % 2 ^ 64) ∧
    (index.toNat = 3 → ∃ ea, eaStd address index s = some ea ∧
      ea.toNat = (address.toNat + s.i3.toNat) % 2 ^ 64) ∧
    (index.toNat = 4 → ∃ ea, eaStd address index s = some ea ∧
      ea.toNat = (address.toNat + s.i4.toNat) % 2 ^ 64) ∧
    (index.toNat = 5 → ∃ ea, eaStd address index s = some ea ∧
      ea.toNat = (address.toNat + s.i5.toNat) % 2 ^ 64) ∧
    (index.toNat = 6 → ∃ ea, eaStd address index s = some ea ∧
      ea.toNat = (address.toNat + s.i6.toNat) % 2 ^ 64) ∧
    (7 ≤ index.toNat → eaStd address index s = none)

/-- 40_fetch_dispatch.md section 2, arithmetic form; the reading of the index field is D8, the sum D3, the fault D7. -/
def Obligations.ArithmeticEffectiveAddress : Prop :=
  ∀ (address : AddressField) (index : Byte) (s : State),
    (index.toNat = 0 → ∃ ea, eaArith address index s = some ea ∧
      ea.toNat = (address.toNat + s.i1.toNat) % 2 ^ 64) ∧
    (index.toNat = 1 → ∃ ea, eaArith address index s = some ea ∧
      ea.toNat = (address.toNat + s.i2.toNat) % 2 ^ 64) ∧
    (index.toNat = 2 → ∃ ea, eaArith address index s = some ea ∧
      ea.toNat = (address.toNat + s.i3.toNat) % 2 ^ 64) ∧
    (index.toNat = 3 → ∃ ea, eaArith address index s = some ea ∧
      ea.toNat = (address.toNat + s.i4.toNat) % 2 ^ 64) ∧
    (index.toNat = 4 → ∃ ea, eaArith address index s = some ea ∧
      ea.toNat = (address.toNat + s.i5.toNat) % 2 ^ 64) ∧
    (index.toNat = 5 → ∃ ea, eaArith address index s = some ea ∧
      ea.toNat = (address.toNat + s.i6.toNat) % 2 ^ 64) ∧
    (6 ≤ index.toNat → eaArith address index s = none)

/-- 44_compare.md section 3, the table, which the spec marks as derived: the outcomes, and exec of the eight jumps in a
state whose CI is the outcome of comparing r with v. -/
def Obligations.FlagOutcomesAndTheJumpsTheyTake : Prop :=
  (∀ r v : Word,
    (r.toNat < v.toNat → cmp3 r v = .less) ∧
      (r.toNat = v.toNat → cmp3 r v = .equal) ∧
      (r.toNat > v.toNat → cmp3 r v = .greater)) ∧
  ∀ (r v : Word) (address : AddressField) (index : Byte) (s : State) (ea : Word),
    s.ci = cmp3 r v → eaStd address index s = some ea →
      exec (.jl address index) s = .next (savedJump (r.toNat < v.toNat) ea s) ∧
      exec (.je address index) s = .next (savedJump (r.toNat = v.toNat) ea s) ∧
      exec (.jg address index) s = .next (savedJump (r.toNat > v.toNat) ea s) ∧
      exec (.jge address index) s = .next (savedJump (r.toNat ≥ v.toNat) ea s) ∧
      exec (.jne address index) s = .next (savedJump (r.toNat ≠ v.toNat) ea s) ∧
      exec (.jle address index) s = .next (savedJump (r.toNat ≤ v.toNat) ea s) ∧
      exec (.jmp address index) s = .next { s with j := s.pc + 1, pc := ea } ∧
      exec (.jsj address index) s = .next { s with pc := ea }

/-! ### The instructions: results, completion and frame -/

/-- 41_load_store.md section 1 (R130 to R138). -/
def Obligations.LoadsCopyTheWordIntoTheirRegister : Prop :=
  ∀ (address : AddressField) (index modifier : Byte) (s : State) (ea : Word),
    eaStd address index s = some ea → ea.toNat < Config.memSize →
      Sets (.lda address index modifier) s .a (wordAt ea s).toNat ∧
      Sets (.ld1 address index modifier) s .i1 (wordAt ea s).toNat ∧
      Sets (.ld2 address index modifier) s .i2 (wordAt ea s).toNat ∧
      Sets (.ld3 address index modifier) s .i3 (wordAt ea s).toNat ∧
      Sets (.ld4 address index modifier) s .i4 (wordAt ea s).toNat ∧
      Sets (.ld5 address index modifier) s .i5 (wordAt ea s).toNat ∧
      Sets (.ld6 address index modifier) s .i6 (wordAt ea s).toNat ∧
      Sets (.ldx address index modifier) s .x (wordAt ea s).toNat

/-- 41_load_store.md section 2 (R140 to R150). The address stored to is EA, the eight bytes of M[EA]. -/
def Obligations.StoresReplaceTheWord : Prop :=
  ∀ (address : AddressField) (index modifier : Byte) (s : State) (ea : Word),
    eaStd address index s = some ea → ea.toNat < Config.memSize →
      Stores (.sta address index modifier) s ea s.a ∧
      Stores (.st1 address index modifier) s ea s.i1 ∧
      Stores (.st2 address index modifier) s ea s.i2 ∧
      Stores (.st3 address index modifier) s ea s.i3 ∧
      Stores (.st4 address index modifier) s ea s.i4 ∧
      Stores (.st5 address index modifier) s ea s.i5 ∧
      Stores (.st6 address index modifier) s ea s.i6 ∧
      Stores (.stx address index modifier) s ea s.x ∧
      Stores (.stj address index modifier) s ea s.j ∧
      Stores (.stz address index modifier) s ea 0

/-- 42_arithmetic.md section 2 (R161 to R163); X untouched by MUL is D18. -/
def Obligations.AddSubMulWriteAModulo : Prop :=
  ∀ (address : AddressField) (index modifier : Byte) (s : State) (ea : Word),
    eaArith address index s = some ea → ea.toNat < Config.memSize →
      Sets (.add address index modifier) s .a ((s.a.toNat + (wordAt ea s).toNat) % 2 ^ 64) ∧
      Sets (.sub address index modifier) s .a ((s.a.toNat + (2 ^ 64 - (wordAt ea s).toNat)) % 2 ^ 64) ∧
      Sets (.mul address index modifier) s .a (s.a.toNat * (wordAt ea s).toNat % 2 ^ 64)

/-- 42_arithmetic.md sections 2 and 3 (R164, R165); A alone as dividend and no remainder is D18. -/
def Obligations.DivWritesTheFloorQuotient : Prop :=
  ∀ (address : AddressField) (index modifier : Byte) (s : State) (ea : Word),
    eaArith address index s = some ea → ea.toNat < Config.memSize → wordAt ea s ≠ 0 →
      ∃ q, Sets (.div address index modifier) s .a q ∧
        q * (wordAt ea s).toNat ≤ s.a.toNat ∧ s.a.toNat < (q + 1) * (wordAt ea s).toNat

/-- 43_inc_dec_enter.md section 2 (R171, R174, R177, R180, R183, R186, R189, R192); the operand is the number EA, D10, so no bound on EA is asked. -/
def Obligations.IncrementsAddTheAddress : Prop :=
  ∀ (address : AddressField) (index : Byte) (s : State) (ea : Word),
    eaStd address index s = some ea →
      Sets (.inca address index) s .a ((s.a.toNat + ea.toNat) % 2 ^ 64) ∧
      Sets (.inc1 address index) s .i1 ((s.i1.toNat + ea.toNat) % 2 ^ 64) ∧
      Sets (.inc2 address index) s .i2 ((s.i2.toNat + ea.toNat) % 2 ^ 64) ∧
      Sets (.inc3 address index) s .i3 ((s.i3.toNat + ea.toNat) % 2 ^ 64) ∧
      Sets (.inc4 address index) s .i4 ((s.i4.toNat + ea.toNat) % 2 ^ 64) ∧
      Sets (.inc5 address index) s .i5 ((s.i5.toNat + ea.toNat) % 2 ^ 64) ∧
      Sets (.inc6 address index) s .i6 ((s.i6.toNat + ea.toNat) % 2 ^ 64) ∧
      Sets (.incx address index) s .x ((s.x.toNat + ea.toNat) % 2 ^ 64)

/-- 43_inc_dec_enter.md section 2 (R172, R175, R178, R181, R184, R187, R190, R193); the operand is the number EA, D10, so no bound on EA is asked. -/
def Obligations.DecrementsSubtractTheAddress : Prop :=
  ∀ (address : AddressField) (index : Byte) (s : State) (ea : Word),
    eaStd address index s = some ea →
      Sets (.deca address index) s .a ((s.a.toNat + (2 ^ 64 - ea.toNat)) % 2 ^ 64) ∧
      Sets (.dec1 address index) s .i1 ((s.i1.toNat + (2 ^ 64 - ea.toNat)) % 2 ^ 64) ∧
      Sets (.dec2 address index) s .i2 ((s.i2.toNat + (2 ^ 64 - ea.toNat)) % 2 ^ 64) ∧
      Sets (.dec3 address index) s .i3 ((s.i3.toNat + (2 ^ 64 - ea.toNat)) % 2 ^ 64) ∧
      Sets (.dec4 address index) s .i4 ((s.i4.toNat + (2 ^ 64 - ea.toNat)) % 2 ^ 64) ∧
      Sets (.dec5 address index) s .i5 ((s.i5.toNat + (2 ^ 64 - ea.toNat)) % 2 ^ 64) ∧
      Sets (.dec6 address index) s .i6 ((s.i6.toNat + (2 ^ 64 - ea.toNat)) % 2 ^ 64) ∧
      Sets (.decx address index) s .x ((s.x.toNat + (2 ^ 64 - ea.toNat)) % 2 ^ 64)

/-- 43_inc_dec_enter.md section 2 (R173, R176, R179, R182, R185, R188, R191, R194); the operand is the number EA, D10, so no bound on EA is asked. -/
def Obligations.EntersWriteTheAddress : Prop :=
  ∀ (address : AddressField) (index : Byte) (s : State) (ea : Word),
    eaStd address index s = some ea →
      Sets (.enta address index) s .a ea.toNat ∧
      Sets (.ent1 address index) s .i1 ea.toNat ∧
      Sets (.ent2 address index) s .i2 ea.toNat ∧
      Sets (.ent3 address index) s .i3 ea.toNat ∧
      Sets (.ent4 address index) s .i4 ea.toNat ∧
      Sets (.ent5 address index) s .i5 ea.toNat ∧
      Sets (.ent6 address index) s .i6 ea.toNat ∧
      Sets (.entx address index) s .x ea.toNat

/-- 44_compare.md section 2 (R201 to R208). -/
def Obligations.ComparesSetTheFlag : Prop :=
  ∀ (address : AddressField) (index modifier : Byte) (s : State) (ea : Word),
    eaStd address index s = some ea → ea.toNat < Config.memSize →
      Compares (.cmpa address index modifier) s s.a (wordAt ea s) ∧
      Compares (.cmp1 address index modifier) s s.i1 (wordAt ea s) ∧
      Compares (.cmp2 address index modifier) s s.i2 (wordAt ea s) ∧
      Compares (.cmp3 address index modifier) s s.i3 (wordAt ea s) ∧
      Compares (.cmp4 address index modifier) s s.i4 (wordAt ea s) ∧
      Compares (.cmp5 address index modifier) s s.i5 (wordAt ea s) ∧
      Compares (.cmp6 address index modifier) s s.i6 (wordAt ea s) ∧
      Compares (.cmpx address index modifier) s s.x (wordAt ea s)

/-- 45_jump.md section 2 (R216, R217). The target is not checked against MEM_SIZE (D15). -/
def Obligations.UnconditionalJumpsGoToTheAddress : Prop :=
  ∀ (address : AddressField) (index : Byte) (s : State) (ea : Word),
    eaStd address index s = some ea →
      exec (.jmp address index) s = .next { s with j := s.pc + 1, pc := ea } ∧
      exec (.jsj address index) s = .next { s with pc := ea }

/-- 45_jump.md section 2 (R218 to R223). -/
def Obligations.ConditionalJumpsFollowTheFlag : Prop :=
  ∀ (address : AddressField) (index : Byte) (s : State) (ea : Word),
    eaStd address index s = some ea →
      exec (.jl address index) s = .next (savedJump (s.ci = .less) ea s) ∧
      exec (.je address index) s = .next (savedJump (s.ci = .equal) ea s) ∧
      exec (.jg address index) s = .next (savedJump (s.ci = .greater) ea s) ∧
      exec (.jge address index) s = .next (savedJump (s.ci ≠ .less) ea s) ∧
      exec (.jne address index) s = .next (savedJump (s.ci ≠ .equal) ea s) ∧
      exec (.jle address index) s = .next (savedJump (s.ci ≠ .greater) ea s)

/-! ### Where an instruction faults -/

/-- 60_exceptions.md section 1, IndexFault, by decision D7; taken or not for a conditional jump by D15. -/
def Obligations.IllFormedIndexRaisesIndexFault : Prop :=
  ∀ (i : Instr) (s : State), i.wellFormed = false → exec i s = .next (raise .indexFault none s)

/-- 60_exceptions.md section 1, AddressFault (a), by decision D4. -/
def Obligations.AccessOutsideMemoryRaisesAddressFault : Prop :=
  ∀ (i : Instr) (s : State) (ea : Word), accessesMemory (opNumber i) = true →
    effectiveAddress i s = some ea → Config.memSize ≤ ea.toNat →
      exec i s = .next (raise .addressFault (some ea) s)

/-- 42_arithmetic.md section 2 and 60_exceptions.md section 1, by decision D6. -/
def Obligations.DivisionByZeroRaisesArithmeticFault : Prop :=
  ∀ (address : AddressField) (index modifier : Byte) (s : State) (ea : Word),
    eaArith address index s = some ea → ea.toNat < Config.memSize → wordAt ea s = 0 →
      exec (.div address index modifier) s = .next (raise .arithmeticFault none s)

/-- 60_exceptions.md section 1, the table of which instruction can raise what, which the spec marks as derived. -/
def Obligations.FaultKindsByFamily : Prop :=
  ∀ (i : Instr) (s t : State), s.status = .running → exec i s = .next t → t.status = .faulted →
    ∃ r, t.fault = some r ∧
      ((opNumber i = 40 ∧ r.cause = .unimplemented) ∨
        (opNumber i ≠ 40 ∧ r.cause = .indexFault ∧ i.wellFormed = false) ∨
        (accessesMemory (opNumber i) = true ∧ r.cause = .addressFault ∧
          ∃ ea, r.ea = some ea ∧ effectiveAddress i s = some ea ∧ Config.memSize ≤ ea.toNat) ∨
        (opNumber i = 4 ∧ r.cause = .arithmeticFault ∧
          ∃ ea, eaArith i.address i.index s = some ea ∧ ea.toNat < Config.memSize ∧ wordAt ea s = 0))

/-! ### Frames over all instructions -/

/-- 10_state.md section 1 (who writes each register); `destination` names the register of each instruction. -/
def Obligations.RegistersChangeOnlyAtTheDestination : Prop :=
  ∀ (i : Instr) (s t : State) (r : Reg), exec i s = .next t → destination i ≠ some r →
    t.read r = s.read r

/-- 20_memory.md sections 1 and 4; byte n belongs to word n / 8. For an instruction that stores nothing, every byte. -/
def Obligations.MemoryChangesOnlyAtTheStoredWord : Prop :=
  ∀ (i : Instr) (s t : State) (n : Nat), exec i s = .next t →
    (∀ ea, storeTarget i s = some ea → n / 8 ≠ ea.toNat) → readByte t.mem n = readByte s.mem n

/-- 10_state.md section 4; that a fault has no other effect is D12. -/
def Obligations.StatusAndReportChangeOnlyByAFault : Prop :=
  ∀ (i : Instr) (s t : State), exec i s = .next t →
    (t.status = s.status ∧ t.fault = s.fault) ∨ ∃ cause ea, t = raise cause ea s

/-- 10_state.md R26: Equal after reset; a step that changes CI ran a word of opcode 56 to 63, and those write it; what an
instruction other than opcode 39 with modifiers 4 to 9 does to the rest of the state does not depend on CI; each of those
reads it: from two states that differ in CI alone it goes to two different pcs. -/
def Obligations.FlagIsWrittenByComparesAndReadByConditionalJumps : Prop :=
  State.reset.ci = .equal ∧
    (∀ s t : State, step s = .next t → t.ci ≠ s.ci →
      56 ≤ (wordAt s.pc s).toNat % 2 ^ 8 ∧ (wordAt s.pc s).toNat % 2 ^ 8 ≤ 63) ∧
    (∀ (r : Reg) (i : Instr) (address : AddressField) (index modifier : Byte) (s : State) (ea : Word),
      compareOf r address index modifier = some i → eaStd address index s = some ea →
        ea.toNat < Config.memSize → Compares i s (s.read r) (wordAt ea s)) ∧
    (∀ (i : Instr) (s t u : State) (c : Comparison), ¬(opNumber i = 39 ∧ 4 ≤ modNumber i) →
      exec i s = .next t → exec i { s with ci := c } = .next u →
        { t with ci := .equal } = { u with ci := .equal }) ∧
    ∀ i : Instr, opNumber i = 39 → 4 ≤ modNumber i → i.wellFormed = true →
      ∃ (s t u : State) (c d : Comparison), exec i { s with ci := c } = .next t ∧
        exec i { s with ci := d } = .next u ∧ t.pc ≠ u.pc

/-- 10_state.md R22: only a taken save-and-jump writes J, with pc + 1, and it does; only STJ reads it. -/
def Obligations.ReturnRegisterIsWrittenByTakenSaveAndJumpReadByStj : Prop :=
  (∀ (i : Instr) (s t : State), exec i s = .next t → t.j ≠ s.j →
      opNumber i = 39 ∧ modNumber i ≠ 1 ∧ jumpTaken (modNumber i) s.ci = true ∧ t.j = s.pc + 1) ∧
    (∀ (i : Instr) (s : State) (ea : Word), opNumber i = 39 → modNumber i ≠ 1 →
      jumpTaken (modNumber i) s.ci = true → eaStd i.address i.index s = some ea →
        ∃ t, exec i s = .next t ∧ t.j = s.pc + 1 ∧ t.pc = ea) ∧
    (∀ (i : Instr) (s t u : State) (v : Word), opNumber i ≠ 32 →
      exec i s = .next t → exec i { s with j := v } = .next u → { t with j := 0 } = { u with j := 0 }) ∧
    ∀ (address : AddressField) (index modifier : Byte) (s : State) (ea : Word),
      eaStd address index s = some ea → ea.toNat < Config.memSize →
        Stores (.stj address index modifier) s ea s.j

/-- 10_state.md section 1, A and X (R20): no instruction uses them as a pair. -/
def Obligations.AccumulatorAndExtensionDoNotMeet : Prop :=
  (∀ (i : Instr) (s t : State), exec i s = .next t →
      (t.a ≠ s.a → opNumber i ∈ [1, 2, 3, 4, 8, 48]) ∧ (t.x ≠ s.x → opNumber i ∈ [15, 55])) ∧
    (∀ (i : Instr) (s t u : State) (v : Word), opNumber i ≠ 31 → opNumber i ≠ 63 →
      exec i s = .next t → exec i { s with x := v } = .next u → { t with x := 0 } = { u with x := 0 }) ∧
    ∀ (i : Instr) (s t u : State) (v : Word), opNumber i ≠ 24 → opNumber i ≠ 56 →
      exec i s = .next t → exec i { s with a := v } = .next u → { t with a := 0 } = { u with a := 0 }

/-- 30_encoding.md section 3, the ignored modifier of the load, store, arithmetic and compare families, by decision D9. -/
def Obligations.ModifierIsIgnoredWhereItSelectsNothing : Prop :=
  ∀ (address : AddressField) (index m n : Byte) (s : State),
    exec (.add address index m) s = exec (.add address index n) s ∧
    exec (.sub address index m) s = exec (.sub address index n) s ∧
    exec (.mul address index m) s = exec (.mul address index n) s ∧
    exec (.div address index m) s = exec (.div address index n) s ∧
    exec (.lda address index m) s = exec (.lda address index n) s ∧
    exec (.ld1 address index m) s = exec (.ld1 address index n) s ∧
    exec (.ld2 address index m) s = exec (.ld2 address index n) s ∧
    exec (.ld3 address index m) s = exec (.ld3 address index n) s ∧
    exec (.ld4 address index m) s = exec (.ld4 address index n) s ∧
    exec (.ld5 address index m) s = exec (.ld5 address index n) s ∧
    exec (.ld6 address index m) s = exec (.ld6 address index n) s ∧
    exec (.ldx address index m) s = exec (.ldx address index n) s ∧
    exec (.sta address index m) s = exec (.sta address index n) s ∧
    exec (.st1 address index m) s = exec (.st1 address index n) s ∧
    exec (.st2 address index m) s = exec (.st2 address index n) s ∧
    exec (.st3 address index m) s = exec (.st3 address index n) s ∧
    exec (.st4 address index m) s = exec (.st4 address index n) s ∧
    exec (.st5 address index m) s = exec (.st5 address index n) s ∧
    exec (.st6 address index m) s = exec (.st6 address index n) s ∧
    exec (.stx address index m) s = exec (.stx address index n) s ∧
    exec (.stj address index m) s = exec (.stj address index n) s ∧
    exec (.stz address index m) s = exec (.stz address index n) s ∧
    exec (.cmpa address index m) s = exec (.cmpa address index n) s ∧
    exec (.cmp1 address index m) s = exec (.cmp1 address index n) s ∧
    exec (.cmp2 address index m) s = exec (.cmp2 address index n) s ∧
    exec (.cmp3 address index m) s = exec (.cmp3 address index n) s ∧
    exec (.cmp4 address index m) s = exec (.cmp4 address index n) s ∧
    exec (.cmp5 address index m) s = exec (.cmp5 address index n) s ∧
    exec (.cmp6 address index m) s = exec (.cmp6 address index n) s ∧
    exec (.cmpx address index m) s = exec (.cmpx address index n) s

/-! ### The step -/

/-- 40_fetch_dispatch.md section 1: a step is the meaning of the decoded instruction, then the halt check. It asks no
well-formedness of the instruction. -/
def Obligations.StepRunsTheDecodedInstruction : Prop :=
  ∀ (w : Word) (i : Instr) (s : State), Fetches w s → decode w = .instr i →
    ∃ t, exec i s = .next t ∧
      (t.status = .running → t.pc = 0 → step s = .next { t with status := .halted }) ∧
      (t.status ≠ .running ∨ t.pc ≠ 0 → step s = .next t)

/-- 40_fetch_dispatch.md section 1, fetch, by decision D5. -/
def Obligations.FetchOutsideMemoryRaisesAddressFault : Prop :=
  ∀ s : State, s.status = .running → Config.memSize ≤ s.pc.toNat →
    step s =
      .next
        { s with
          status := .faulted
          fault := some { cause := .addressFault, pc := s.pc, word := none, ea := none } }

/-- 10_state.md section 4 and 60_exceptions.md section 3: Halted and Faulted are terminal and FAULT is never overwritten, by
decisions D13 and D17. -/
def Obligations.EndedMachineStaysAsItIs : Prop :=
  ∀ (n : Nat) (s : State), s.status ≠ .running →
    step s = .next s ∧ Host.Core.run core n s = .next s ∧ run n s = .next s

/-- 40_fetch_dispatch.md R107: the check before the fetch and after execution; the only way to pc = 0; J kept; no step in
Halted changes anything. -/
def Obligations.HaltingIsATakenJumpToZero : Prop :=
  (∀ s : State, s.status = .running → s.pc = 0 → step s = .next { s with status := .halted }) ∧
    (∀ s t : State, s.status = .running → s.pc ≠ 0 → step s = .next t →
      (t.status = .halted ↔ t.pc = 0) ∧
      (t.pc = 0 →
        opcodeField (wordAt s.pc s) = 39 ∧
        eaStd (addressField (wordAt s.pc s)) (indexField (wordAt s.pc s)) s = some 0 ∧
        jumpTaken (modifierField (wordAt s.pc s)).toNat s.ci = true ∧
        t.j = (if modifierField (wordAt s.pc s) = 1 then s.j else s.pc + 1))) ∧
    ∀ s : State, s.status = .halted → step s = .next s

/-- 40_fetch_dispatch.md R106. A fetched instruction has pc < MEM_SIZE. The second clause carries the first to the step; the
third covers every step that raises: at fetch, at dispatch and in a handler. -/
def Obligations.PcAdvancesByOneUnlessAJumpIsPerformed : Prop :=
  (∀ (i : Instr) (s t : State), s.status = .running → s.pc.toNat < Config.memSize →
    exec i s = .next t →
      (t.status = .faulted → t.pc = s.pc) ∧
      (t.status ≠ .faulted → opNumber i ≠ 39 → t.pc.toNat = s.pc.toNat + 1) ∧
      (t.status ≠ .faulted → opNumber i = 39 → jumpTaken (modNumber i) s.ci = false →
        t.pc.toNat = s.pc.toNat + 1) ∧
      (t.status ≠ .faulted → opNumber i = 39 → jumpTaken (modNumber i) s.ci = true →
        eaStd i.address i.index s = some t.pc)) ∧
  (∀ (w : Word) (i : Instr) (s t u : State), Fetches w s → decode w = .instr i →
    exec i s = .next t → step s = .next u → u.pc = t.pc) ∧
  ∀ s t : State, s.status = .running → step s = .next t → t.status = .faulted → t.pc = s.pc

/-- 70_reset_and_hazards.md section 5 and 93_implementation_defined.md part 1: every word in every state has exactly one
outcome. That the outcome of a fault is a next state is log entry 2 (DEDUCED). -/
def Obligations.EveryStepCompletes : Prop :=
  (∀ (i : Instr) (s : State), ∃ t, exec i s = .next t) ∧ ∀ s : State, ∃ t, step s = .next t

/-- 60_exceptions.md section 3, entry; precise and effect-free by decision D12, the layout of FAULT by D13. -/
def Obligations.FaultsArePreciseAndHaveNoOtherEffect : Prop :=
  ∀ s t : State, s.status = .running → step s = .next t → t.status = .faulted →
    ∃ cause ea,
      t =
        { s with
          status := .faulted
          fault := some
            { cause := cause
              pc := s.pc
              word := if s.pc.toNat < Config.memSize then some (wordAt s.pc s) else none
              ea := ea } }

/-- State.Inv of Safety.lean: the canonical form of memory (log entry 1), 10_state.md section 7 (d), which the spec marks as
derived, and the shape of FAULT (D13). For every state, not only for those a run reaches. -/
def Obligations.StepKeepsTheInvariant : Prop :=
  ∀ s t : State, s.Inv → step s = .next t → t.Inv

/-- The invariant holds right after reset. -/
def Obligations.ResetSatisfiesTheInvariant : Prop :=
  State.reset.Inv

/-- 70_reset_and_hazards.md sections 2 and 3: any words loaded by the host before the first step, then any number of steps. -/
def Obligations.EveryRunOfALoadedProgramKeepsTheInvariant : Prop :=
  ∀ (program : List (Fin Config.memSize × Word)) (n : Nat),
    ∃ t, Host.Core.run core n (loaded program) = .next t ∧ t.Inv

/-- 40_fetch_dispatch.md section 1 and the pseudocode of the six families, over numbers and selectors, with the priority of
60_exceptions.md section 2 (D11). The fault clauses rest on D4 to D8, D11 to D13 and D22. -/
def Obligations.StepIsTheReferenceStep : Prop :=
  ∀ s : State, step s = .next (refStep s)

/-! ### Instructions together -/

/-- 20_memory.md section 6, (c): a load returns the value of the most recent store to that address. -/
def Obligations.StoredWordIsLoadedBack : Prop :=
  ∀ (r q : Reg) (st ld : Instr) (address : AddressField) (index m n : Byte) (s : State) (ea : Word),
    storeOf r address index m = some st → loadOf q address index n = some ld →
      eaStd address index s = some ea → ea.toNat < Config.memSize →
        ∃ t u, exec st s = .next t ∧ exec ld t = .next u ∧ u.read q = s.read r

/-- 41_load_store.md section 1, the idempotence sentence, with the proviso of 95_test_vectors.md S3 that the index register is
not the register loaded. Memory in its canonical form is an invariant of every step. -/
def Obligations.LoadThenStoreLeavesMemoryAsItWas : Prop :=
  ∀ (r : Reg) (st ld : Instr) (address : AddressField) (index m n : Byte) (s : State) (ea : Word),
    storeOf r address index m = some st → loadOf r address index n = some ld →
      indexRegister index.toNat ≠ some r → s.mem.wf = true →
        eaStd address index s = some ea → ea.toNat < Config.memSize →
          ∃ t u, exec ld s = .next t ∧ exec st t = .next u ∧ u.mem = s.mem

/-- 44_compare.md section 3, last sentence, which the spec marks as derived. -/
def Obligations.CompareWithTheWordJustStoredGivesEqual : Prop :=
  ∀ (r : Reg) (st cmp : Instr) (address : AddressField) (index m n : Byte) (s : State) (ea : Word),
    storeOf r address index m = some st → compareOf r address index n = some cmp →
      eaStd address index s = some ea → ea.toNat < Config.memSize →
        ∃ t u, exec st s = .next t ∧ exec cmp t = .next u ∧ u.ci = .equal

/-- 20_memory.md section 6, instruction-fetch coherence, which the spec marks as derived. -/
def Obligations.StoreIntoTheNextInstructionIsFetched : Prop :=
  ∀ (r : Reg) (st : Instr) (address : AddressField) (index m : Byte) (w : Word) (s : State),
    Fetches w s → decode w = .instr st → storeOf r address index m = some st →
      eaStd address index s = some (s.pc + 1) → (s.pc + 1).toNat < Config.memSize →
        ∃ t, step s = .next t ∧ Fetches (s.read r) t

/-- 10_state.md section 6 and 70_reset_and_hazards.md section 5: a taken jump to its own address leaves pc unchanged (D20) and
the run never ends. -/
def Obligations.JumpToItselfRunsForever : Prop :=
  ∀ (w : Word) (address : AddressField) (index : Byte) (s : State), Fetches w s →
    decode w = .instr (.jmp address index) → eaStd address index s = some s.pc →
      ∀ n, Host.Core.run core (n + 1) s = .next { s with j := s.pc + 1 }

/-- 43_inc_dec_enter.md section 2 (R173, "independent of the prior value of the destination"; 95_test_vectors.md S5). -/
def Obligations.EnterIgnoresTheOldValue : Prop :=
  ∀ (r : Reg) (i : Instr) (address : AddressField) (index : Byte) (v : Word) (s : State),
    enterOf r address index = some i → index.toNat ≤ 6 → indexRegister index.toNat ≠ some r →
      exec i (s.write r v) = exec i s

/-! ### Memory, the host and runs -/

/-- The canonical form of log entry 1 (DESIGN CHOICE): equal memories are equal data. The machine has the words M[0] to
M[MEM_SIZE - 1] and nothing else (20_memory.md section 1). -/
def Obligations.CanonicalMemoriesThatReadAlikeAreEqual : Prop :=
  ∀ m n : Memory, m.wf = true → n.wf = true → (∀ k, readByte m k = readByte n k) → m = n

/-- 70_reset_and_hazards.md section 3, `load(a, w)` (D1). -/
def Obligations.HostLoadWritesOneWord : Prop :=
  ∀ (a : Fin Config.memSize) (w : Word) (s : State),
    readWord (load a w s).mem a.val = w ∧
      (∀ b, b ≠ a.val → readWord (load a w s).mem b = readWord s.mem b) ∧
      load a w s = { s with mem := (load a w s).mem }

/-- withFetchWord stands for the load of a program word by the host (log entry 3; 70_reset_and_hazards.md section 2). -/
def Obligations.PlacedInstructionIsTheOneThatRuns : Prop :=
  ∀ (w : Word) (i : Instr) (s : State), s.status = .running → s.pc ≠ 0 →
    s.pc.toNat < Config.memSize → decode w = .instr i →
      Fetches w (s.withFetchWord 64 w.toNat) ∧ decodeTableWord 64 w.toNat = some i ∧
        s.withFetchWord 64 w.toNat = { s with mem := (s.withFetchWord 64 w.toNat).mem } ∧
        ∀ b, b ≠ s.pc.toNat → readWord (s.withFetchWord 64 w.toNat).mem b = readWord s.mem b

/-- 40_fetch_dispatch.md section 3, run: it stops when STATUS is not Running (D17), where further steps change nothing. -/
def Obligations.RunIsRepeatedStep : Prop :=
  ∀ (n : Nat) (s : State), run n s = Host.Core.run core n s
end

