-- ==== Sys2Proof/Laws/Decode.lean ====
section
/-! SUPPORT. The fields of an assembled word are the fields it was assembled from (30_encoding.md R73). -/

namespace Sys2Proof

theorem opcodeField_assemble (a : AddressField) (i : IndexField) (m : ModifierField) (o : OpcodeField) : opcodeField (assemble a i m o) = o := by
  apply BitVec.eq_of_getLsbD_eq
  intro k hk
  simp only [opcodeField, assemble, BitVec.getLsbD_extractLsb', BitVec.getLsbD_or,
    BitVec.getLsbD_shiftLeft, BitVec.getLsbD_setWidth]
  interval_cases k <;> simp

theorem modifierField_assemble (a : AddressField) (i : IndexField) (m : ModifierField) (o : OpcodeField) : modifierField (assemble a i m o) = m := by
  apply BitVec.eq_of_getLsbD_eq
  intro k hk
  have ho : o.getLsbD (8 + k) = false := BitVec.getLsbD_of_ge _ _ (by omega)
  simp only [modifierField, assemble, BitVec.getLsbD_extractLsb', BitVec.getLsbD_or,
    BitVec.getLsbD_shiftLeft, BitVec.getLsbD_setWidth, ho]
  interval_cases k <;> simp

theorem indexField_assemble (a : AddressField) (i : IndexField) (m : ModifierField) (o : OpcodeField) : indexField (assemble a i m o) = i := by
  apply BitVec.eq_of_getLsbD_eq
  intro k hk
  have ho : o.getLsbD (16 + k) = false := BitVec.getLsbD_of_ge _ _ (by omega)
  have hm : m.getLsbD (16 + k - 8) = false := BitVec.getLsbD_of_ge _ _ (by omega)
  simp only [indexField, assemble, BitVec.getLsbD_extractLsb', BitVec.getLsbD_or,
    BitVec.getLsbD_shiftLeft, BitVec.getLsbD_setWidth, ho, hm]
  interval_cases k <;> simp

theorem addressField_assemble (a : AddressField) (i : IndexField) (m : ModifierField) (o : OpcodeField) : addressField (assemble a i m o) = a := by
  apply BitVec.eq_of_getLsbD_eq
  intro k hk
  have ho : o.getLsbD (24 + k) = false := BitVec.getLsbD_of_ge _ _ (by omega)
  have hm : m.getLsbD (24 + k - 8) = false := BitVec.getLsbD_of_ge _ _ (by omega)
  have hi : i.getLsbD (24 + k - 16) = false := BitVec.getLsbD_of_ge _ _ (by omega)
  simp only [addressField, assemble, BitVec.getLsbD_extractLsb', BitVec.getLsbD_or,
    BitVec.getLsbD_shiftLeft, BitVec.getLsbD_setWidth, ho, hm, hi]
  have h1 : 24 + k < 64 := by omega
  have h2 : ¬ 24 + k < 24 := by omega
  have h3 : 24 + k - 24 < 64 := by omega
  have h4 : 24 + k - 24 = k := by omega
  simp [hk, h1, h4]
  exact fun _ => by omega

/-- What the decoder does with opcodes 48 to 55: a listed modifier gives its instruction, any other is
rejected (30_encoding.md R81). -/
theorem decodeIncDecEnter_cases (increment decrement enter : Instr) (m : ModifierField) :
    (m.toNat = 0 ∧ decodeIncDecEnter increment decrement enter m = .instr increment) ∨
    (m.toNat = 1 ∧ decodeIncDecEnter increment decrement enter m = .instr decrement) ∨
    (m.toNat = 2 ∧ decodeIncDecEnter increment decrement enter m = .instr enter) ∨
    (3 ≤ m.toNat ∧
      decodeIncDecEnter increment decrement enter m = .reject .badIncDecEnterModifier) := by
  rcases h : m.toNat with _ | _ | _ | k <;> simp [decodeIncDecEnter, h]

end Sys2Proof
end

