-- ==== Sys2Proof/Laws/Memory.lean ====
section
/-! SUPPORT. The laws of memory: what a read gives after a write, byte by byte and word by word, and that
a write keeps the canonical form. -/

namespace Sys2Proof.Machine

/-! ### Bytes -/

theorem readByte_eraseByte_same (m : Memory) (n : Nat) : readByte (eraseByte m n) n = unlistedByte := by
  induction m with
  | nil => rfl
  | cons c rest ih => by_cases h : c.1 = n <;> simp [eraseByte, readByte, h, ih]

theorem readByte_eraseByte_other (m : Memory) {n k : Nat} (h : k ≠ n) :
    readByte (eraseByte m n) k = readByte m k := by
  induction m with
  | nil => rfl
  | cons c rest ih =>
    by_cases hn : c.1 = n
    · have hk : c.1 ≠ k := fun e => h (e.symm.trans hn)
      simp [eraseByte, readByte, hn, ih, hn ▸ hk]
    · rw [eraseByte, if_neg hn, readByte, readByte, ih]

theorem not_key_eraseByte (m : Memory) (n : Nat) : ∀ c ∈ eraseByte m n, c.1 ≠ n := by
  induction m with
  | nil => simp [eraseByte]
  | cons c rest ih =>
    by_cases h : c.1 = n
    · rwa [eraseByte, if_pos h]
    · rw [eraseByte, if_neg h]
      exact List.forall_mem_cons.2 ⟨h, ih⟩

theorem readByte_insertByte_same {m : Memory} {n : Nat} (b : Byte) (h : ∀ c ∈ m, c.1 ≠ n) :
    readByte (insertByte m n b) n = b := by
  induction m with
  | nil => simp [insertByte, readByte]
  | cons c rest ih =>
    simp only [List.mem_cons, forall_eq_or_imp] at h
    by_cases hc : n < c.1 <;> simp [insertByte, readByte, hc, h.1, ih h.2]

theorem readByte_insertByte_other (m : Memory) {n k : Nat} (b : Byte) (h : k ≠ n) :
    readByte (insertByte m n b) k = readByte m k := by
  induction m with
  | nil => simp [insertByte, readByte, h.symm]
  | cons c rest ih =>
    by_cases hc : n < c.1
    · simp [insertByte, readByte, hc, h.symm]
    · by_cases hk : c.1 = k <;> simp [insertByte, readByte, hc, hk, ih]
      rw [if_neg (hk ▸ hc)]
      simp [readByte, hk]

theorem readByte_writeByte_same (m : Memory) (n : Nat) (b : Byte) : readByte (writeByte m n b) n = b := by
  by_cases h : b = unlistedByte
  · simp [writeByte, h, readByte_eraseByte_same]
  · simp [writeByte, h, readByte_insertByte_same b (not_key_eraseByte m n)]

theorem readByte_writeByte_other (m : Memory) {n k : Nat} (b : Byte) (h : k ≠ n) :
    readByte (writeByte m n b) k = readByte m k := by
  by_cases hb : b = unlistedByte <;>
    simp [writeByte, hb, readByte_insertByte_other _ _ h, readByte_eraseByte_other _ h]

theorem readByte_writeByte (m : Memory) (n k : Nat) (b : Byte) :
    readByte (writeByte m n b) k = if k = n then b else readByte m k := by
  split
  · next h => rw [h, readByte_writeByte_same]
  · next h => exact readByte_writeByte_other m b h

/-! ### The canonical form -/

theorem addressesRise_iff (m : Memory) :
    addressesRise m = true ↔ m.Pairwise (fun c d => c.1 < d.1) := by
  induction m with
  | nil => simp [addressesRise]
  | cons c rest ih =>
    cases rest with
    | nil => simp [addressesRise]
    | cons d rest =>
      simp only [addressesRise, Bool.and_eq_true, decide_eq_true_eq, ih]
      constructor
      · rintro ⟨hcd, hp⟩
        refine List.pairwise_cons.2 ⟨fun e he => ?_, hp⟩
        rcases List.mem_cons.1 he with rfl | he'
        · exact hcd
        · exact hcd.trans ((List.pairwise_cons.1 hp).1 e he')
      · intro hp
        obtain ⟨hc, hp'⟩ := List.pairwise_cons.1 hp
        exact ⟨hc d (by simp), hp'⟩

theorem Memory.wf_iff (m : Memory) :
    m.wf = true ↔ m.Pairwise (fun c d => c.1 < d.1) ∧
      ∀ c ∈ m, c.1 < 8 * Config.memSize ∧ c.2 ≠ unlistedByte := by
  simp [Memory.wf, addressesRise_iff, cellAdmitted]

theorem mem_eraseByte {m : Memory} {n : Nat} {c : Host.Cell} (h : c ∈ eraseByte m n) : c ∈ m := by
  induction m with
  | nil => simp [eraseByte] at h
  | cons d rest ih =>
    by_cases hd : d.1 = n <;> simp [eraseByte, hd] at h
    · exact List.mem_cons_of_mem _ (ih h)
    · rcases h with rfl | h
      · simp
      · exact List.mem_cons_of_mem _ (ih h)

theorem rises_eraseByte {m : Memory} (n : Nat) (h : m.Pairwise (fun c d => c.1 < d.1)) :
    (eraseByte m n).Pairwise (fun c d => c.1 < d.1) := by
  induction m with
  | nil => simp [eraseByte]
  | cons d rest ih =>
    obtain ⟨hd, hr⟩ := List.pairwise_cons.1 h
    by_cases hn : d.1 = n <;> simp only [eraseByte, hn, if_true, if_false]
    · exact ih hr
    · exact List.pairwise_cons.2 ⟨fun c hc => hd c (mem_eraseByte hc), ih hr⟩

theorem mem_insertByte {m : Memory} {n : Nat} {b : Byte} {c : Host.Cell} (h : c ∈ insertByte m n b) :
    c = (n, b) ∨ c ∈ m := by
  induction m with
  | nil => simpa [insertByte] using h
  | cons d rest ih =>
    by_cases hd : n < d.1 <;> simp [insertByte, hd] at h ⊢
    · exact h
    · rcases h with h | h
      · exact .inr (.inl h)
      · rcases ih h with h | h
        · exact .inl h
        · exact .inr (.inr h)

theorem rises_insertByte {m : Memory} {n : Nat} (b : Byte) (hn : ∀ c ∈ m, c.1 ≠ n)
    (h : m.Pairwise (fun c d => c.1 < d.1)) :
    (insertByte m n b).Pairwise (fun c d => c.1 < d.1) := by
  induction m with
  | nil => simp [insertByte]
  | cons d rest ih =>
    obtain ⟨hd, hr⟩ := List.pairwise_cons.1 h
    simp only [List.mem_cons, forall_eq_or_imp] at hn
    by_cases hlt : n < d.1 <;> simp only [insertByte, hlt, if_true, if_false]
    · refine List.pairwise_cons.2 ⟨fun c hc => ?_, h⟩
      rcases List.mem_cons.1 hc with rfl | hc
      · exact hlt
      · exact hlt.trans (hd c hc)
    · refine List.pairwise_cons.2 ⟨fun c hc => ?_, ih hn.2 hr⟩
      rcases mem_insertByte hc with rfl | hc
      · exact lt_of_le_of_ne (not_lt.1 hlt) hn.1
      · exact hd c hc

/-- A byte write inside memory keeps the canonical form. -/
theorem wf_writeByte {m : Memory} {n : Nat} (b : Byte) (hn : n < 8 * Config.memSize) (h : m.wf = true) :
    (writeByte m n b).wf = true := by
  rw [Memory.wf_iff] at h ⊢
  by_cases hb : b = unlistedByte
  · rw [writeByte, if_pos hb]
    exact ⟨rises_eraseByte n h.1, fun c hc => h.2 c (mem_eraseByte hc)⟩
  · rw [writeByte, if_neg hb]
    refine ⟨rises_insertByte b (not_key_eraseByte m n) (rises_eraseByte n h.1), fun c hc => ?_⟩
    rcases mem_insertByte hc with rfl | hc
    · exact ⟨hn, hb⟩
    · exact h.2 c (mem_eraseByte hc)

/-! ### Words -/

/-- The bytes a word write leaves. -/
theorem readByte_writeWord (m : Memory) (a n : Nat) (w : Word) :
    readByte (writeWord m a w) n = if n / 8 = a then wordByte w (n % 8) else readByte m n := by
  simp only [writeWord, List.foldl_cons, List.foldl_nil, readByte_writeByte, Nat.add_zero]
  by_cases h : n / 8 = a
  · have hlt : n % 8 < 8 := Nat.mod_lt _ (by decide)
    have hn : n = 8 * a + n % 8 := by omega
    rw [if_pos h]
    generalize n % 8 = k at *
    subst hn
    interval_cases k <;> simp
  · rw [if_neg h]
    iterate 8 rw [if_neg (by omega)]

theorem wordByte_append (w : Word) :
    (wordByte w 0 ++ wordByte w 1 ++ wordByte w 2 ++ wordByte w 3 ++ wordByte w 4 ++ wordByte w 5
      ++ wordByte w 6 ++ wordByte w 7 : Word) = w := by
  apply BitVec.eq_of_getLsbD_eq
  intro i hi
  simp only [wordByte, BitVec.getLsbD_append, BitVec.getLsbD_extractLsb']
  interval_cases i <;> simp

theorem readWord_writeWord_same (m : Memory) (a : Nat) (w : Word) : readWord (writeWord m a w) a = w := by
  simp only [readWord, readByte_writeWord]
  have e : ∀ k, k < 8 → (8 * a + k) / 8 = a ∧ (8 * a + k) % 8 = k := fun k hk => by omega
  have e0 : 8 * a / 8 = a ∧ 8 * a % 8 = 0 := e 0 (by decide)
  rw [if_pos e0.1, e0.2]
  iterate 7 rw [if_pos (e _ (by decide)).1, (e _ (by decide)).2]
  exact wordByte_append w

theorem readWord_writeWord_other (m : Memory) {a b : Nat} (w : Word) (h : b ≠ a) :
    readWord (writeWord m a w) b = readWord m b := by
  have e : ∀ k, k < 8 → (8 * b + k) / 8 ≠ a := fun k hk => by omega
  have e0 : 8 * b / 8 ≠ a := e 0 (by decide)
  simp only [readWord, readByte_writeWord]
  rw [if_neg e0]
  iterate 7 rw [if_neg (e _ (by decide))]

/-- A word write inside memory keeps the canonical form. -/
theorem wf_writeWord {m : Memory} {a : Nat} (w : Word) (ha : a < Config.memSize) (h : m.wf = true) :
    (writeWord m a w).wf = true := by
  have e : ∀ k, k < 8 → 8 * a + k < 8 * Config.memSize := fun k hk => by omega
  simp only [writeWord, List.foldl_cons, List.foldl_nil]
  iterate 8 apply wf_writeByte _ (e _ (by decide))
  exact h

/-- Byte `k` of the word read at `a` is the byte at 8 * a + k. -/
theorem wordByte_readWord (m : Memory) (a : Nat) {k : Nat} (h : k < 8) :
    wordByte (readWord m a) k = readByte m (8 * a + k) := by
  apply BitVec.eq_of_getLsbD_eq
  intro b hb
  simp only [wordByte, readWord, BitVec.getLsbD_extractLsb', hb, decide_true, Bool.true_and, BitVec.getLsbD_append]
  interval_cases k <;> simp (disch := omega) only [if_pos, if_neg] <;> congr 1 <;> omega

/-! ### The checked accesses -/

theorem inMemory_iff (address : Word) : inMemory address = true ↔ address.toNat < Config.memSize := by
  simp [inMemory]

theorem memRead_eq_some {address v : Word} {s : State} :
    memRead address s = some v ↔
      address.toNat < Config.memSize ∧ readWord s.mem address.toNat = v := by
  simp [memRead, inMemory]

theorem memRead_eq_none {address : Word} {s : State} :
    memRead address s = none ↔ Config.memSize ≤ address.toNat := by
  simp [memRead, inMemory]

theorem memWrite_eq_some {address v : Word} {s t : State} :
    memWrite address v s = some t ↔
      address.toNat < Config.memSize ∧ { s with mem := writeWord s.mem address.toNat v } = t := by
  simp [memWrite, inMemory]

theorem memWrite_eq_none {address v : Word} {s : State} :
    memWrite address v s = none ↔ Config.memSize ≤ address.toNat := by
  simp [memWrite, inMemory]

/-- A checked write keeps the canonical form. -/
theorem wf_memWrite {address v : Word} {s t : State} (h : memWrite address v s = some t)
    (hs : s.mem.wf = true) : t.mem.wf = true := by
  obtain ⟨ha, rfl⟩ := memWrite_eq_some.1 h
  exact wf_writeWord v ha hs

/-- The memory after reset has the canonical form. -/
theorem wf_reset : State.reset.mem.wf = true := rfl

/-- Every byte, and so every word, reads 0 after reset. -/
theorem readByte_reset (n : Nat) : readByte State.reset.mem n = 0 := rfl

end Sys2Proof.Machine
end

