-- ==== Sys2Proof/Laws/Operands.lean ====
section
/-! SUPPORT. The operand forms: which index fields select a register, and everything that checking an
index field or reading an operand can end in. -/

namespace Sys2Proof.Machine

/-- There are six index registers (10_state.md R21). -/
theorem indexRegister_eq_none {k : Nat} : indexRegister k = none ↔ k = 0 ∨ 7 ≤ k := by
  rcases k with _ | _ | _ | _ | _ | _ | _ | k <;> simp [indexRegister, Config.nIndex]

theorem indexRegister_ne_x {k : Nat} {r : Reg} (h : indexRegister k = some r) :
    r ≠ .a ∧ r ≠ .x ∧ r ≠ .j := by
  rcases k with _ | _ | _ | _ | _ | _ | _ | k <;> simp [indexRegister, Config.nIndex] at h <;> subst h <;> decide

/-- The index fields of the standard form that select nothing (40_fetch_dispatch.md R104). -/
theorem eaStd_eq_none {a : AddressField} {i : IndexField} {s : State} : eaStd a i s = none ↔ 7 ≤ i.toNat := by
  by_cases h : i = 0
  · simp [eaStd, h]
  · have hi : i.toNat ≠ 0 := fun e => h (BitVec.eq_of_toNat_eq (by simpa using e))
    rw [eaStd, if_neg h]
    cases hr : indexRegister i.toNat with
    | none => exact ⟨fun _ => (indexRegister_eq_none.1 hr).resolve_left hi, fun _ => rfl⟩
    | some r => exact ⟨fun e => (nomatch e), fun e => by simp [indexRegister_eq_none.2 (.inr e)] at hr⟩

/-- The index fields of the arithmetic form that select nothing (40_fetch_dispatch.md R105). -/
theorem eaArith_eq_none {a : AddressField} {i : IndexField} {s : State} :
    eaArith a i s = none ↔ 6 ≤ i.toNat := by
  rw [eaArith]
  cases hr : indexRegister (i.toNat + 1) with
  | none =>
    have := indexRegister_eq_none.1 hr
    exact ⟨fun _ => by omega, fun _ => rfl⟩
  | some r =>
    exact ⟨fun e => (nomatch e), fun e => by simp [indexRegister_eq_none.2 (.inr (Nat.succ_le_succ e))] at hr⟩

/-- The standard form has an effective address exactly where the index field is in its range. -/
theorem eaStd_eq_none_iff_range {a : AddressField} {i : IndexField} {s : State} :
    eaStd a i s = none ↔ indexInRange .standard i = false := by
  rw [eaStd_eq_none]
  exact ⟨fun h => decide_eq_false (Nat.not_le.2 h), fun h => Nat.not_le.1 (of_decide_eq_false h)⟩

/-- The arithmetic form has an effective address exactly where the index field is in its range. -/
theorem eaArith_eq_none_iff_range {a : AddressField} {i : IndexField} {s : State} :
    eaArith a i s = none ↔ indexInRange .arithmetic i = false := by
  rw [eaArith_eq_none]
  exact ⟨fun h => decide_eq_false (Nat.not_lt.2 h), fun h => Nat.not_lt.1 (of_decide_eq_false h)⟩

/-- An effective address reads nothing but the index registers. -/
theorem eaStd_congr {a : AddressField} {i : IndexField} {s t : State}
    (h : ∀ r, r ≠ .a → r ≠ .x → r ≠ .j → t.read r = s.read r) : eaStd a i t = eaStd a i s := by
  unfold eaStd
  split
  · rfl
  · cases hr : indexRegister i.toNat with
    | none => rfl
    | some r =>
      have hx := indexRegister_ne_x hr
      simp [h r hx.1 hx.2.1 hx.2.2]

/-- An arithmetic effective address reads nothing but the index registers. -/
theorem eaArith_congr {a : AddressField} {i : IndexField} {s t : State}
    (h : ∀ r, r ≠ .a → r ≠ .x → r ≠ .j → t.read r = s.read r) : eaArith a i t = eaArith a i s := by
  unfold eaArith
  cases hr : indexRegister (i.toNat + 1) with
  | none => rfl
  | some r =>
    have hx := indexRegister_ne_x hr
    simp [h r hx.1 hx.2.1 hx.2.2]

@[simp] theorem withAddress_some (a : Word) (s : State) (f : Word → Result) :
    withAddress (some a) s f = f a := rfl

@[simp] theorem withAddress_none (s : State) (f : Word → Result) :
    withAddress none s f = .next (raise .indexFault none s) := rfl

/-- Everything that checking the index field can end in. -/
theorem withAddress_cases {ea : Option Word} {s : State} {f : Word → Result} {r : Result}
    (h : withAddress ea s f = r) :
    (ea = none ∧ r = .next (raise .indexFault none s)) ∨ ∃ a, ea = some a ∧ r = f a := by
  cases ea with
  | none => exact .inl ⟨rfl, h.symm⟩
  | some a => exact .inr ⟨a, rfl, h.symm⟩

theorem withOperand_of_lt {a : Word} {s : State} (f : Word → Result) (h : a.toNat < Config.memSize) :
    withOperand (some a) s f = f (readWord s.mem a.toNat) := by
  simp [withOperand, memRead, inMemory, h]

theorem withOperand_of_ge {a : Word} {s : State} (f : Word → Result) (h : Config.memSize ≤ a.toNat) :
    withOperand (some a) s f = .next (raise .addressFault (some a) s) := by
  simp [withOperand, memRead_eq_none.2 h]

/-- Everything that reading an operand can end in. -/
theorem withOperand_cases {ea : Option Word} {s : State} {f : Word → Result} {r : Result}
    (h : withOperand ea s f = r) :
    (ea = none ∧ r = .next (raise .indexFault none s)) ∨
    (∃ a, ea = some a ∧ Config.memSize ≤ a.toNat ∧ r = .next (raise .addressFault (some a) s)) ∨
    (∃ a, ea = some a ∧ a.toNat < Config.memSize ∧ r = f (readWord s.mem a.toNat)) := by
  cases ea with
  | none => exact .inl ⟨rfl, h.symm⟩
  | some a =>
    rcases Nat.lt_or_ge a.toNat Config.memSize with hlt | hge
    · exact .inr (.inr ⟨a, rfl, hlt, by rw [← h, withOperand_of_lt f hlt]⟩)
    · exact .inr (.inl ⟨a, rfl, hge, by rw [← h, withOperand_of_ge f hge]⟩)

end Sys2Proof.Machine
end

