-- ==== Sys2Proof/Laws/State.lean ====
section
/-! SUPPORT. The small lemmas of the state's updates: each field after each update, and each register
read after it. -/

namespace Sys2Proof.Machine

/-! ### `x[s] <- v` -/

theorem State.write_a (s : State) (v : Word) : s.write .a v = { s with a := v } := rfl

theorem State.write_i1 (s : State) (v : Word) : s.write .i1 v = { s with i1 := v } := rfl

theorem State.write_i2 (s : State) (v : Word) : s.write .i2 v = { s with i2 := v } := rfl

theorem State.write_i3 (s : State) (v : Word) : s.write .i3 v = { s with i3 := v } := rfl

theorem State.write_i4 (s : State) (v : Word) : s.write .i4 v = { s with i4 := v } := rfl

theorem State.write_i5 (s : State) (v : Word) : s.write .i5 v = { s with i5 := v } := rfl

theorem State.write_i6 (s : State) (v : Word) : s.write .i6 v = { s with i6 := v } := rfl

theorem State.write_x (s : State) (v : Word) : s.write .x v = { s with x := v } := rfl

theorem State.write_j (s : State) (v : Word) : s.write .j v = { s with j := v } := rfl

@[simp] theorem State.write_ci (s : State) (r : Reg) (v : Word) : (s.write r v).ci = s.ci := by cases r <;> rfl

@[simp] theorem State.write_pc (s : State) (r : Reg) (v : Word) : (s.write r v).pc = s.pc := by cases r <;> rfl

@[simp] theorem State.write_status (s : State) (r : Reg) (v : Word) : (s.write r v).status = s.status := by cases r <;> rfl

@[simp] theorem State.write_fault (s : State) (r : Reg) (v : Word) : (s.write r v).fault = s.fault := by cases r <;> rfl

@[simp] theorem State.write_mem (s : State) (r : Reg) (v : Word) : (s.write r v).mem = s.mem := by cases r <;> rfl

@[simp] theorem State.read_write_same (s : State) (r : Reg) (v : Word) : (s.write r v).read r = v := by
  cases r <;> rfl

theorem State.read_write_other (s : State) {r q : Reg} (v : Word) (h : q ≠ r) :
    (s.write r v).read q = s.read q := by
  cases r <;> cases q <;> first | rfl | exact absurd rfl h

@[simp] theorem State.write_a_a (s : State) (v : Word) : (s.write .a v).a = v := rfl

@[simp] theorem State.write_a_keeps_i1 (s : State) (v : Word) : (s.write .a v).i1 = s.i1 := rfl

@[simp] theorem State.write_a_keeps_i2 (s : State) (v : Word) : (s.write .a v).i2 = s.i2 := rfl

@[simp] theorem State.write_a_keeps_i3 (s : State) (v : Word) : (s.write .a v).i3 = s.i3 := rfl

@[simp] theorem State.write_a_keeps_i4 (s : State) (v : Word) : (s.write .a v).i4 = s.i4 := rfl

@[simp] theorem State.write_a_keeps_i5 (s : State) (v : Word) : (s.write .a v).i5 = s.i5 := rfl

@[simp] theorem State.write_a_keeps_i6 (s : State) (v : Word) : (s.write .a v).i6 = s.i6 := rfl

@[simp] theorem State.write_a_keeps_x (s : State) (v : Word) : (s.write .a v).x = s.x := rfl

@[simp] theorem State.write_a_keeps_j (s : State) (v : Word) : (s.write .a v).j = s.j := rfl

@[simp] theorem State.write_i1_i1 (s : State) (v : Word) : (s.write .i1 v).i1 = v := rfl

@[simp] theorem State.write_i1_keeps_a (s : State) (v : Word) : (s.write .i1 v).a = s.a := rfl

@[simp] theorem State.write_i1_keeps_i2 (s : State) (v : Word) : (s.write .i1 v).i2 = s.i2 := rfl

@[simp] theorem State.write_i1_keeps_i3 (s : State) (v : Word) : (s.write .i1 v).i3 = s.i3 := rfl

@[simp] theorem State.write_i1_keeps_i4 (s : State) (v : Word) : (s.write .i1 v).i4 = s.i4 := rfl

@[simp] theorem State.write_i1_keeps_i5 (s : State) (v : Word) : (s.write .i1 v).i5 = s.i5 := rfl

@[simp] theorem State.write_i1_keeps_i6 (s : State) (v : Word) : (s.write .i1 v).i6 = s.i6 := rfl

@[simp] theorem State.write_i1_keeps_x (s : State) (v : Word) : (s.write .i1 v).x = s.x := rfl

@[simp] theorem State.write_i1_keeps_j (s : State) (v : Word) : (s.write .i1 v).j = s.j := rfl

@[simp] theorem State.write_i2_i2 (s : State) (v : Word) : (s.write .i2 v).i2 = v := rfl

@[simp] theorem State.write_i2_keeps_a (s : State) (v : Word) : (s.write .i2 v).a = s.a := rfl

@[simp] theorem State.write_i2_keeps_i1 (s : State) (v : Word) : (s.write .i2 v).i1 = s.i1 := rfl

@[simp] theorem State.write_i2_keeps_i3 (s : State) (v : Word) : (s.write .i2 v).i3 = s.i3 := rfl

@[simp] theorem State.write_i2_keeps_i4 (s : State) (v : Word) : (s.write .i2 v).i4 = s.i4 := rfl

@[simp] theorem State.write_i2_keeps_i5 (s : State) (v : Word) : (s.write .i2 v).i5 = s.i5 := rfl

@[simp] theorem State.write_i2_keeps_i6 (s : State) (v : Word) : (s.write .i2 v).i6 = s.i6 := rfl

@[simp] theorem State.write_i2_keeps_x (s : State) (v : Word) : (s.write .i2 v).x = s.x := rfl

@[simp] theorem State.write_i2_keeps_j (s : State) (v : Word) : (s.write .i2 v).j = s.j := rfl

@[simp] theorem State.write_i3_i3 (s : State) (v : Word) : (s.write .i3 v).i3 = v := rfl

@[simp] theorem State.write_i3_keeps_a (s : State) (v : Word) : (s.write .i3 v).a = s.a := rfl

@[simp] theorem State.write_i3_keeps_i1 (s : State) (v : Word) : (s.write .i3 v).i1 = s.i1 := rfl

@[simp] theorem State.write_i3_keeps_i2 (s : State) (v : Word) : (s.write .i3 v).i2 = s.i2 := rfl

@[simp] theorem State.write_i3_keeps_i4 (s : State) (v : Word) : (s.write .i3 v).i4 = s.i4 := rfl

@[simp] theorem State.write_i3_keeps_i5 (s : State) (v : Word) : (s.write .i3 v).i5 = s.i5 := rfl

@[simp] theorem State.write_i3_keeps_i6 (s : State) (v : Word) : (s.write .i3 v).i6 = s.i6 := rfl

@[simp] theorem State.write_i3_keeps_x (s : State) (v : Word) : (s.write .i3 v).x = s.x := rfl

@[simp] theorem State.write_i3_keeps_j (s : State) (v : Word) : (s.write .i3 v).j = s.j := rfl

@[simp] theorem State.write_i4_i4 (s : State) (v : Word) : (s.write .i4 v).i4 = v := rfl

@[simp] theorem State.write_i4_keeps_a (s : State) (v : Word) : (s.write .i4 v).a = s.a := rfl

@[simp] theorem State.write_i4_keeps_i1 (s : State) (v : Word) : (s.write .i4 v).i1 = s.i1 := rfl

@[simp] theorem State.write_i4_keeps_i2 (s : State) (v : Word) : (s.write .i4 v).i2 = s.i2 := rfl

@[simp] theorem State.write_i4_keeps_i3 (s : State) (v : Word) : (s.write .i4 v).i3 = s.i3 := rfl

@[simp] theorem State.write_i4_keeps_i5 (s : State) (v : Word) : (s.write .i4 v).i5 = s.i5 := rfl

@[simp] theorem State.write_i4_keeps_i6 (s : State) (v : Word) : (s.write .i4 v).i6 = s.i6 := rfl

@[simp] theorem State.write_i4_keeps_x (s : State) (v : Word) : (s.write .i4 v).x = s.x := rfl

@[simp] theorem State.write_i4_keeps_j (s : State) (v : Word) : (s.write .i4 v).j = s.j := rfl

@[simp] theorem State.write_i5_i5 (s : State) (v : Word) : (s.write .i5 v).i5 = v := rfl

@[simp] theorem State.write_i5_keeps_a (s : State) (v : Word) : (s.write .i5 v).a = s.a := rfl

@[simp] theorem State.write_i5_keeps_i1 (s : State) (v : Word) : (s.write .i5 v).i1 = s.i1 := rfl

@[simp] theorem State.write_i5_keeps_i2 (s : State) (v : Word) : (s.write .i5 v).i2 = s.i2 := rfl

@[simp] theorem State.write_i5_keeps_i3 (s : State) (v : Word) : (s.write .i5 v).i3 = s.i3 := rfl

@[simp] theorem State.write_i5_keeps_i4 (s : State) (v : Word) : (s.write .i5 v).i4 = s.i4 := rfl

@[simp] theorem State.write_i5_keeps_i6 (s : State) (v : Word) : (s.write .i5 v).i6 = s.i6 := rfl

@[simp] theorem State.write_i5_keeps_x (s : State) (v : Word) : (s.write .i5 v).x = s.x := rfl

@[simp] theorem State.write_i5_keeps_j (s : State) (v : Word) : (s.write .i5 v).j = s.j := rfl

@[simp] theorem State.write_i6_i6 (s : State) (v : Word) : (s.write .i6 v).i6 = v := rfl

@[simp] theorem State.write_i6_keeps_a (s : State) (v : Word) : (s.write .i6 v).a = s.a := rfl

@[simp] theorem State.write_i6_keeps_i1 (s : State) (v : Word) : (s.write .i6 v).i1 = s.i1 := rfl

@[simp] theorem State.write_i6_keeps_i2 (s : State) (v : Word) : (s.write .i6 v).i2 = s.i2 := rfl

@[simp] theorem State.write_i6_keeps_i3 (s : State) (v : Word) : (s.write .i6 v).i3 = s.i3 := rfl

@[simp] theorem State.write_i6_keeps_i4 (s : State) (v : Word) : (s.write .i6 v).i4 = s.i4 := rfl

@[simp] theorem State.write_i6_keeps_i5 (s : State) (v : Word) : (s.write .i6 v).i5 = s.i5 := rfl

@[simp] theorem State.write_i6_keeps_x (s : State) (v : Word) : (s.write .i6 v).x = s.x := rfl

@[simp] theorem State.write_i6_keeps_j (s : State) (v : Word) : (s.write .i6 v).j = s.j := rfl

@[simp] theorem State.write_x_x (s : State) (v : Word) : (s.write .x v).x = v := rfl

@[simp] theorem State.write_x_keeps_a (s : State) (v : Word) : (s.write .x v).a = s.a := rfl

@[simp] theorem State.write_x_keeps_i1 (s : State) (v : Word) : (s.write .x v).i1 = s.i1 := rfl

@[simp] theorem State.write_x_keeps_i2 (s : State) (v : Word) : (s.write .x v).i2 = s.i2 := rfl

@[simp] theorem State.write_x_keeps_i3 (s : State) (v : Word) : (s.write .x v).i3 = s.i3 := rfl

@[simp] theorem State.write_x_keeps_i4 (s : State) (v : Word) : (s.write .x v).i4 = s.i4 := rfl

@[simp] theorem State.write_x_keeps_i5 (s : State) (v : Word) : (s.write .x v).i5 = s.i5 := rfl

@[simp] theorem State.write_x_keeps_i6 (s : State) (v : Word) : (s.write .x v).i6 = s.i6 := rfl

@[simp] theorem State.write_x_keeps_j (s : State) (v : Word) : (s.write .x v).j = s.j := rfl

@[simp] theorem State.write_j_j (s : State) (v : Word) : (s.write .j v).j = v := rfl

@[simp] theorem State.write_j_keeps_a (s : State) (v : Word) : (s.write .j v).a = s.a := rfl

@[simp] theorem State.write_j_keeps_i1 (s : State) (v : Word) : (s.write .j v).i1 = s.i1 := rfl

@[simp] theorem State.write_j_keeps_i2 (s : State) (v : Word) : (s.write .j v).i2 = s.i2 := rfl

@[simp] theorem State.write_j_keeps_i3 (s : State) (v : Word) : (s.write .j v).i3 = s.i3 := rfl

@[simp] theorem State.write_j_keeps_i4 (s : State) (v : Word) : (s.write .j v).i4 = s.i4 := rfl

@[simp] theorem State.write_j_keeps_i5 (s : State) (v : Word) : (s.write .j v).i5 = s.i5 := rfl

@[simp] theorem State.write_j_keeps_i6 (s : State) (v : Word) : (s.write .j v).i6 = s.i6 := rfl

@[simp] theorem State.write_j_keeps_x (s : State) (v : Word) : (s.write .j v).x = s.x := rfl

/-! ### Reading a register by name -/

@[simp] theorem State.read_a (s : State) : s.read .a = s.a := rfl

@[simp] theorem State.read_i1 (s : State) : s.read .i1 = s.i1 := rfl

@[simp] theorem State.read_i2 (s : State) : s.read .i2 = s.i2 := rfl

@[simp] theorem State.read_i3 (s : State) : s.read .i3 = s.i3 := rfl

@[simp] theorem State.read_i4 (s : State) : s.read .i4 = s.i4 := rfl

@[simp] theorem State.read_i5 (s : State) : s.read .i5 = s.i5 := rfl

@[simp] theorem State.read_i6 (s : State) : s.read .i6 = s.i6 := rfl

@[simp] theorem State.read_x (s : State) : s.read .x = s.x := rfl

@[simp] theorem State.read_j (s : State) : s.read .j = s.j := rfl

/-! ### `CI <- c` -/

@[simp] theorem setFlag_a (c : Comparison) (s : State) : (setFlag c s).a = s.a := rfl

@[simp] theorem setFlag_x (c : Comparison) (s : State) : (setFlag c s).x = s.x := rfl

@[simp] theorem setFlag_i1 (c : Comparison) (s : State) : (setFlag c s).i1 = s.i1 := rfl

@[simp] theorem setFlag_i2 (c : Comparison) (s : State) : (setFlag c s).i2 = s.i2 := rfl

@[simp] theorem setFlag_i3 (c : Comparison) (s : State) : (setFlag c s).i3 = s.i3 := rfl

@[simp] theorem setFlag_i4 (c : Comparison) (s : State) : (setFlag c s).i4 = s.i4 := rfl

@[simp] theorem setFlag_i5 (c : Comparison) (s : State) : (setFlag c s).i5 = s.i5 := rfl

@[simp] theorem setFlag_i6 (c : Comparison) (s : State) : (setFlag c s).i6 = s.i6 := rfl

@[simp] theorem setFlag_j (c : Comparison) (s : State) : (setFlag c s).j = s.j := rfl

@[simp] theorem setFlag_ci (c : Comparison) (s : State) : (setFlag c s).ci = c := rfl

@[simp] theorem setFlag_pc (c : Comparison) (s : State) : (setFlag c s).pc = s.pc := rfl

@[simp] theorem setFlag_status (c : Comparison) (s : State) : (setFlag c s).status = s.status := rfl

@[simp] theorem setFlag_fault (c : Comparison) (s : State) : (setFlag c s).fault = s.fault := rfl

@[simp] theorem setFlag_mem (c : Comparison) (s : State) : (setFlag c s).mem = s.mem := rfl

@[simp] theorem read_setFlag (c : Comparison) (s : State) (r : Reg) : (setFlag c s).read r = s.read r := by cases r <;> rfl

@[simp] theorem memRead_setFlag (c : Comparison) (s : State) (address : Word) : memRead address (setFlag c s) = memRead address s := rfl

/-! ### `pc <- pc + 1` -/

@[simp] theorem advance_a (s : State) : (advance s).a = s.a := rfl

@[simp] theorem advance_x (s : State) : (advance s).x = s.x := rfl

@[simp] theorem advance_i1 (s : State) : (advance s).i1 = s.i1 := rfl

@[simp] theorem advance_i2 (s : State) : (advance s).i2 = s.i2 := rfl

@[simp] theorem advance_i3 (s : State) : (advance s).i3 = s.i3 := rfl

@[simp] theorem advance_i4 (s : State) : (advance s).i4 = s.i4 := rfl

@[simp] theorem advance_i5 (s : State) : (advance s).i5 = s.i5 := rfl

@[simp] theorem advance_i6 (s : State) : (advance s).i6 = s.i6 := rfl

@[simp] theorem advance_j (s : State) : (advance s).j = s.j := rfl

@[simp] theorem advance_ci (s : State) : (advance s).ci = s.ci := rfl

@[simp] theorem advance_pc (s : State) : (advance s).pc = s.pc + 1 := rfl

@[simp] theorem advance_status (s : State) : (advance s).status = s.status := rfl

@[simp] theorem advance_fault (s : State) : (advance s).fault = s.fault := rfl

@[simp] theorem advance_mem (s : State) : (advance s).mem = s.mem := rfl

@[simp] theorem read_advance (s : State) (r : Reg) : (advance s).read r = s.read r := by cases r <;> rfl

@[simp] theorem memRead_advance (s : State) (address : Word) : memRead address (advance s) = memRead address s := rfl

/-! ### `pc <- target` -/

@[simp] theorem jumpTo_a (target : Word) (s : State) : (jumpTo target s).a = s.a := rfl

@[simp] theorem jumpTo_x (target : Word) (s : State) : (jumpTo target s).x = s.x := rfl

@[simp] theorem jumpTo_i1 (target : Word) (s : State) : (jumpTo target s).i1 = s.i1 := rfl

@[simp] theorem jumpTo_i2 (target : Word) (s : State) : (jumpTo target s).i2 = s.i2 := rfl

@[simp] theorem jumpTo_i3 (target : Word) (s : State) : (jumpTo target s).i3 = s.i3 := rfl

@[simp] theorem jumpTo_i4 (target : Word) (s : State) : (jumpTo target s).i4 = s.i4 := rfl

@[simp] theorem jumpTo_i5 (target : Word) (s : State) : (jumpTo target s).i5 = s.i5 := rfl

@[simp] theorem jumpTo_i6 (target : Word) (s : State) : (jumpTo target s).i6 = s.i6 := rfl

@[simp] theorem jumpTo_j (target : Word) (s : State) : (jumpTo target s).j = s.j := rfl

@[simp] theorem jumpTo_ci (target : Word) (s : State) : (jumpTo target s).ci = s.ci := rfl

@[simp] theorem jumpTo_pc (target : Word) (s : State) : (jumpTo target s).pc = target := rfl

@[simp] theorem jumpTo_status (target : Word) (s : State) : (jumpTo target s).status = s.status := rfl

@[simp] theorem jumpTo_fault (target : Word) (s : State) : (jumpTo target s).fault = s.fault := rfl

@[simp] theorem jumpTo_mem (target : Word) (s : State) : (jumpTo target s).mem = s.mem := rfl

@[simp] theorem read_jumpTo (target : Word) (s : State) (r : Reg) : (jumpTo target s).read r = s.read r := by cases r <;> rfl

@[simp] theorem memRead_jumpTo (target : Word) (s : State) (address : Word) : memRead address (jumpTo target s) = memRead address s := rfl

/-! ### `J <- pc + 1` -/

@[simp] theorem saveReturn_a (s : State) : (saveReturn s).a = s.a := rfl

@[simp] theorem saveReturn_x (s : State) : (saveReturn s).x = s.x := rfl

@[simp] theorem saveReturn_i1 (s : State) : (saveReturn s).i1 = s.i1 := rfl

@[simp] theorem saveReturn_i2 (s : State) : (saveReturn s).i2 = s.i2 := rfl

@[simp] theorem saveReturn_i3 (s : State) : (saveReturn s).i3 = s.i3 := rfl

@[simp] theorem saveReturn_i4 (s : State) : (saveReturn s).i4 = s.i4 := rfl

@[simp] theorem saveReturn_i5 (s : State) : (saveReturn s).i5 = s.i5 := rfl

@[simp] theorem saveReturn_i6 (s : State) : (saveReturn s).i6 = s.i6 := rfl

@[simp] theorem saveReturn_j (s : State) : (saveReturn s).j = s.pc + 1 := rfl

@[simp] theorem saveReturn_ci (s : State) : (saveReturn s).ci = s.ci := rfl

@[simp] theorem saveReturn_pc (s : State) : (saveReturn s).pc = s.pc := rfl

@[simp] theorem saveReturn_status (s : State) : (saveReturn s).status = s.status := rfl

@[simp] theorem saveReturn_fault (s : State) : (saveReturn s).fault = s.fault := rfl

@[simp] theorem saveReturn_mem (s : State) : (saveReturn s).mem = s.mem := rfl

theorem read_saveReturn (s : State) {r : Reg} (h : r ≠ .j) : (saveReturn s).read r = s.read r := by
  cases r <;> first | rfl | exact absurd rfl h

@[simp] theorem memRead_saveReturn (s : State) (address : Word) : memRead address (saveReturn s) = memRead address s := rfl

/-! ### `STATUS <- Halted` -/

@[simp] theorem halt_a (s : State) : (halt s).a = s.a := rfl

@[simp] theorem halt_x (s : State) : (halt s).x = s.x := rfl

@[simp] theorem halt_i1 (s : State) : (halt s).i1 = s.i1 := rfl

@[simp] theorem halt_i2 (s : State) : (halt s).i2 = s.i2 := rfl

@[simp] theorem halt_i3 (s : State) : (halt s).i3 = s.i3 := rfl

@[simp] theorem halt_i4 (s : State) : (halt s).i4 = s.i4 := rfl

@[simp] theorem halt_i5 (s : State) : (halt s).i5 = s.i5 := rfl

@[simp] theorem halt_i6 (s : State) : (halt s).i6 = s.i6 := rfl

@[simp] theorem halt_j (s : State) : (halt s).j = s.j := rfl

@[simp] theorem halt_ci (s : State) : (halt s).ci = s.ci := rfl

@[simp] theorem halt_pc (s : State) : (halt s).pc = s.pc := rfl

@[simp] theorem halt_status (s : State) : (halt s).status = .halted := rfl

@[simp] theorem halt_fault (s : State) : (halt s).fault = s.fault := rfl

@[simp] theorem halt_mem (s : State) : (halt s).mem = s.mem := rfl

@[simp] theorem read_halt (s : State) (r : Reg) : (halt s).read r = s.read r := by cases r <;> rfl

@[simp] theorem memRead_halt (s : State) (address : Word) : memRead address (halt s) = memRead address s := rfl

/-! ### `raise` -/

@[simp] theorem raise_a (k : FaultCause) (ea : Option Word) (s : State) : (raise k ea s).a = s.a := rfl

@[simp] theorem raise_x (k : FaultCause) (ea : Option Word) (s : State) : (raise k ea s).x = s.x := rfl

@[simp] theorem raise_i1 (k : FaultCause) (ea : Option Word) (s : State) : (raise k ea s).i1 = s.i1 := rfl

@[simp] theorem raise_i2 (k : FaultCause) (ea : Option Word) (s : State) : (raise k ea s).i2 = s.i2 := rfl

@[simp] theorem raise_i3 (k : FaultCause) (ea : Option Word) (s : State) : (raise k ea s).i3 = s.i3 := rfl

@[simp] theorem raise_i4 (k : FaultCause) (ea : Option Word) (s : State) : (raise k ea s).i4 = s.i4 := rfl

@[simp] theorem raise_i5 (k : FaultCause) (ea : Option Word) (s : State) : (raise k ea s).i5 = s.i5 := rfl

@[simp] theorem raise_i6 (k : FaultCause) (ea : Option Word) (s : State) : (raise k ea s).i6 = s.i6 := rfl

@[simp] theorem raise_j (k : FaultCause) (ea : Option Word) (s : State) : (raise k ea s).j = s.j := rfl

@[simp] theorem raise_ci (k : FaultCause) (ea : Option Word) (s : State) : (raise k ea s).ci = s.ci := rfl

@[simp] theorem raise_pc (k : FaultCause) (ea : Option Word) (s : State) : (raise k ea s).pc = s.pc := rfl

@[simp] theorem raise_status (k : FaultCause) (ea : Option Word) (s : State) : (raise k ea s).status = .faulted := rfl

@[simp] theorem raise_fault (k : FaultCause) (ea : Option Word) (s : State) : (raise k ea s).fault = some ⟨k, s.pc, memRead s.pc s, ea⟩ := rfl

@[simp] theorem raise_mem (k : FaultCause) (ea : Option Word) (s : State) : (raise k ea s).mem = s.mem := rfl

@[simp] theorem read_raise (k : FaultCause) (ea : Option Word) (s : State) (r : Reg) : (raise k ea s).read r = s.read r := by cases r <;> rfl

@[simp] theorem memRead_raise (k : FaultCause) (ea : Option Word) (s : State) (address : Word) : memRead address (raise k ea s) = memRead address s := rfl

@[simp] theorem memRead_write (s : State) (r : Reg) (v address : Word) :
    memRead address (s.write r v) = memRead address s := by cases r <;> rfl

/-! ### The halt check -/

theorem haltCheck_of_pc_ne {s : State} (h : s.pc ≠ Config.haltAddr) : haltCheck s = s := by
  simp [haltCheck, h]

theorem haltCheck_of_pc_eq {s : State} (hs : s.status = .running) (h : s.pc = Config.haltAddr) :
    haltCheck s = halt s := by
  simp [haltCheck, hs, h]

theorem haltCheck_of_not_running {s : State} (h : s.status ≠ .running) : haltCheck s = s := by
  simp [haltCheck, h]

/-- The halt check leaves the state alone or sets STATUS to Halted. -/
theorem haltCheck_cases (s : State) :
    haltCheck s = s ∨ (s.status = .running ∧ s.pc = Config.haltAddr ∧ haltCheck s = halt s) := by
  by_cases h : s.status = .running ∧ s.pc = Config.haltAddr
  · exact .inr ⟨h.1, h.2, haltCheck_of_pc_eq h.1 h.2⟩
  · exact .inl (if_neg h)

end Sys2Proof.Machine
end

