-- ==== Sys2Proof/Laws/Handlers.lean ====
section
/-! SUPPORT. Everything each family's shared operation can do, once: the proofs about an instruction cite
these and unfold no handler. -/

namespace Sys2Proof.Machine

theorem next_inj {s t : State} : (Host.Outcome.next s : Result) = .next t ↔ s = t :=
  ⟨fun h => by injection h, fun h => by rw [h]⟩

/-- The load family (41_load_store.md R130). -/
theorem loadInto_cases {r : Reg} {a : AddressField} {i : IndexField} {s t : State}
    (h : loadInto r a i s = .next t) :
    (eaStd a i s = none ∧ t = raise .indexFault none s) ∨
    (∃ ea, eaStd a i s = some ea ∧ Config.memSize ≤ ea.toNat ∧ t = raise .addressFault (some ea) s) ∨
    (∃ ea, eaStd a i s = some ea ∧ ea.toNat < Config.memSize ∧
      t = advance (s.write r (readWord s.mem ea.toNat))) := by
  rcases withOperand_cases h with ⟨he, ht⟩ | ⟨ea, he, hge, ht⟩ | ⟨ea, he, hlt, ht⟩
  · exact .inl ⟨he, next_inj.1 ht⟩
  · exact .inr (.inl ⟨ea, he, hge, next_inj.1 ht⟩)
  · exact .inr (.inr ⟨ea, he, hlt, next_inj.1 ht⟩)

/-- The store family (41_load_store.md R140). -/
theorem storeValue_cases {v : Word} {a : AddressField} {i : IndexField} {s t : State}
    (h : storeValue v a i s = .next t) :
    (eaStd a i s = none ∧ t = raise .indexFault none s) ∨
    (∃ ea, eaStd a i s = some ea ∧ Config.memSize ≤ ea.toNat ∧ t = raise .addressFault (some ea) s) ∨
    (∃ ea, eaStd a i s = some ea ∧ ea.toNat < Config.memSize ∧
      t = advance { s with mem := writeWord s.mem ea.toNat v }) := by
  rcases withAddress_cases h with ⟨he, ht⟩ | ⟨ea, he, ht⟩
  · exact .inl ⟨he, next_inj.1 ht⟩
  · cases hw : memWrite ea v s with
    | none =>
      rw [hw] at ht
      exact .inr (.inl ⟨ea, he, memWrite_eq_none.1 hw, next_inj.1 ht⟩)
    | some s' =>
      rw [hw] at ht
      obtain ⟨hlt, rfl⟩ := memWrite_eq_some.1 hw
      exact .inr (.inr ⟨ea, he, hlt, next_inj.1 ht⟩)

/-- The arithmetic family (42_arithmetic.md R160). -/
theorem arithmetic_cases {op : Word → Word → Option Word} {a : AddressField} {i : IndexField} {s t : State}
    (h : arithmetic op a i s = .next t) :
    (eaArith a i s = none ∧ t = raise .indexFault none s) ∨
    (∃ ea, eaArith a i s = some ea ∧ Config.memSize ≤ ea.toNat ∧ t = raise .addressFault (some ea) s) ∨
    (∃ ea, eaArith a i s = some ea ∧ ea.toNat < Config.memSize ∧
      op s.a (readWord s.mem ea.toNat) = none ∧ t = raise .arithmeticFault none s) ∨
    (∃ ea v, eaArith a i s = some ea ∧ ea.toNat < Config.memSize ∧
      op s.a (readWord s.mem ea.toNat) = some v ∧ t = advance (s.write .a v)) := by
  rcases withOperand_cases h with ⟨he, ht⟩ | ⟨ea, he, hge, ht⟩ | ⟨ea, he, hlt, ht⟩
  · exact .inl ⟨he, next_inj.1 ht⟩
  · exact .inr (.inl ⟨ea, he, hge, next_inj.1 ht⟩)
  · cases hop : op s.a (readWord s.mem ea.toNat) with
    | none =>
      rw [hop] at ht
      exact .inr (.inr (.inl ⟨ea, he, hlt, hop, next_inj.1 ht⟩))
    | some v =>
      rw [hop] at ht
      exact .inr (.inr (.inr ⟨ea, v, he, hlt, hop, next_inj.1 ht⟩))

/-- The increment, decrement and enter family (43_inc_dec_enter.md R170). -/
theorem updateByAddress_cases {op : Word → Word → Word} {r : Reg} {a : AddressField} {i : IndexField}
    {s t : State} (h : updateByAddress op r a i s = .next t) :
    (eaStd a i s = none ∧ t = raise .indexFault none s) ∨
    (∃ ea, eaStd a i s = some ea ∧ t = advance (s.write r (op (s.read r) ea))) := by
  rcases withAddress_cases h with ⟨he, ht⟩ | ⟨ea, he, ht⟩
  · exact .inl ⟨he, next_inj.1 ht⟩
  · exact .inr ⟨ea, he, next_inj.1 ht⟩

/-- The compare family (44_compare.md R200). -/
theorem compareWith_cases {r : Reg} {a : AddressField} {i : IndexField} {s t : State}
    (h : compareWith r a i s = .next t) :
    (eaStd a i s = none ∧ t = raise .indexFault none s) ∨
    (∃ ea, eaStd a i s = some ea ∧ Config.memSize ≤ ea.toNat ∧ t = raise .addressFault (some ea) s) ∨
    (∃ ea, eaStd a i s = some ea ∧ ea.toNat < Config.memSize ∧
      t = advance (setFlag (cmp3 (s.read r) (readWord s.mem ea.toNat)) s)) := by
  rcases withOperand_cases h with ⟨he, ht⟩ | ⟨ea, he, hge, ht⟩ | ⟨ea, he, hlt, ht⟩
  · exact .inl ⟨he, next_inj.1 ht⟩
  · exact .inr (.inl ⟨ea, he, hge, next_inj.1 ht⟩)
  · exact .inr (.inr ⟨ea, he, hlt, next_inj.1 ht⟩)

/-- The jump family (45_jump.md R215). -/
theorem jumpWhen_cases {c : Condition} {k : Saving} {a : AddressField} {i : IndexField} {s t : State}
    (h : jumpWhen c k a i s = .next t) :
    (eaStd a i s = none ∧ t = raise .indexFault none s) ∨
    (∃ ea, eaStd a i s = some ea ∧ conditionHolds c s.ci = true ∧ t = jumped k ea s) ∨
    (∃ ea, eaStd a i s = some ea ∧ conditionHolds c s.ci = false ∧ t = advance s) := by
  rcases withAddress_cases h with ⟨he, ht⟩ | ⟨ea, he, ht⟩
  · exact .inl ⟨he, next_inj.1 ht⟩
  · cases hc : conditionHolds c s.ci with
    | false =>
      simp only [hc, Bool.false_eq_true, if_false] at ht
      exact .inr (.inr ⟨ea, he, rfl, next_inj.1 ht⟩)
    | true =>
      simp only [hc, if_true] at ht
      exact .inr (.inl ⟨ea, he, rfl, next_inj.1 ht⟩)

/-- A performed jump that saves: J, then the pc. -/
theorem jumped_save (ea : Word) (s : State) : jumped .save ea s = { s with j := s.pc + 1, pc := ea } := rfl

/-- A performed jump that keeps J. -/
theorem jumped_keep (ea : Word) (s : State) : jumped .keep ea s = { s with pc := ea } := rfl

/-- A zero divisor has no quotient, any other has the floor (42_arithmetic.md R164). -/
theorem divide_eq_none {a v : Word} : divide a v = none ↔ v = 0 := by
  simp [divide]

theorem divide_of_ne {a v : Word} (h : v ≠ 0) : divide a v = some (a / v) := if_neg h

end Sys2Proof.Machine
end

