-- ==== Sys2Proof/Laws/PerInstr.lean ====
section
/-! SUPPORT. What holds of every instruction as syntax, one lemma per constructor. -/

/-- The word of an instruction carries its opcode, its modifier, its index field and its address field
where 30_encoding.md R70 puts them. -/
def Sys2Proof.Laws.EncodedFields.Statement (i : Sys2Proof.Instr) : Prop :=
  Sys2Proof.opcodeField (Sys2Proof.encode i) = Sys2Proof.opcodeOf i ∧
    Sys2Proof.modifierField (Sys2Proof.encode i) = Sys2Proof.modifierOf i ∧
      Sys2Proof.indexField (Sys2Proof.encode i) = i.index ∧
        Sys2Proof.addressField (Sys2Proof.encode i) = i.address

namespace Sys2Proof.Laws.EncodedFields

theorem of_assemble (i : Instr) : Statement i :=
  ⟨opcodeField_assemble _ _ _ _, modifierField_assemble _ _ _ _, indexField_assemble _ _ _ _,
    addressField_assemble _ _ _ _⟩

theorem add (address : AddressField) (index : IndexField) (modifier : ModifierField) :
    Statement (.add address index modifier) := of_assemble _

theorem sub (address : AddressField) (index : IndexField) (modifier : ModifierField) :
    Statement (.sub address index modifier) := of_assemble _

theorem mul (address : AddressField) (index : IndexField) (modifier : ModifierField) :
    Statement (.mul address index modifier) := of_assemble _

theorem div (address : AddressField) (index : IndexField) (modifier : ModifierField) :
    Statement (.div address index modifier) := of_assemble _

theorem lda (address : AddressField) (index : IndexField) (modifier : ModifierField) :
    Statement (.lda address index modifier) := of_assemble _

theorem ld1 (address : AddressField) (index : IndexField) (modifier : ModifierField) :
    Statement (.ld1 address index modifier) := of_assemble _

theorem ld2 (address : AddressField) (index : IndexField) (modifier : ModifierField) :
    Statement (.ld2 address index modifier) := of_assemble _

theorem ld3 (address : AddressField) (index : IndexField) (modifier : ModifierField) :
    Statement (.ld3 address index modifier) := of_assemble _

theorem ld4 (address : AddressField) (index : IndexField) (modifier : ModifierField) :
    Statement (.ld4 address index modifier) := of_assemble _

theorem ld5 (address : AddressField) (index : IndexField) (modifier : ModifierField) :
    Statement (.ld5 address index modifier) := of_assemble _

theorem ld6 (address : AddressField) (index : IndexField) (modifier : ModifierField) :
    Statement (.ld6 address index modifier) := of_assemble _

theorem ldx (address : AddressField) (index : IndexField) (modifier : ModifierField) :
    Statement (.ldx address index modifier) := of_assemble _

theorem sta (address : AddressField) (index : IndexField) (modifier : ModifierField) :
    Statement (.sta address index modifier) := of_assemble _

theorem st1 (address : AddressField) (index : IndexField) (modifier : ModifierField) :
    Statement (.st1 address index modifier) := of_assemble _

theorem st2 (address : AddressField) (index : IndexField) (modifier : ModifierField) :
    Statement (.st2 address index modifier) := of_assemble _

theorem st3 (address : AddressField) (index : IndexField) (modifier : ModifierField) :
    Statement (.st3 address index modifier) := of_assemble _

theorem st4 (address : AddressField) (index : IndexField) (modifier : ModifierField) :
    Statement (.st4 address index modifier) := of_assemble _

theorem st5 (address : AddressField) (index : IndexField) (modifier : ModifierField) :
    Statement (.st5 address index modifier) := of_assemble _

theorem st6 (address : AddressField) (index : IndexField) (modifier : ModifierField) :
    Statement (.st6 address index modifier) := of_assemble _

theorem stx (address : AddressField) (index : IndexField) (modifier : ModifierField) :
    Statement (.stx address index modifier) := of_assemble _

theorem stj (address : AddressField) (index : IndexField) (modifier : ModifierField) :
    Statement (.stj address index modifier) := of_assemble _

theorem stz (address : AddressField) (index : IndexField) (modifier : ModifierField) :
    Statement (.stz address index modifier) := of_assemble _

theorem jmp (address : AddressField) (index : IndexField) :
    Statement (.jmp address index) := of_assemble _

theorem jsj (address : AddressField) (index : IndexField) :
    Statement (.jsj address index) := of_assemble _

theorem jl (address : AddressField) (index : IndexField) :
    Statement (.jl address index) := of_assemble _

theorem je (address : AddressField) (index : IndexField) :
    Statement (.je address index) := of_assemble _

theorem jg (address : AddressField) (index : IndexField) :
    Statement (.jg address index) := of_assemble _

theorem jge (address : AddressField) (index : IndexField) :
    Statement (.jge address index) := of_assemble _

theorem jne (address : AddressField) (index : IndexField) :
    Statement (.jne address index) := of_assemble _

theorem jle (address : AddressField) (index : IndexField) :
    Statement (.jle address index) := of_assemble _

theorem reserved40 (address : AddressField) (index : IndexField) (modifier : ModifierField) :
    Statement (.reserved40 address index modifier) := of_assemble _

theorem inca (address : AddressField) (index : IndexField) :
    Statement (.inca address index) := of_assemble _

theorem deca (address : AddressField) (index : IndexField) :
    Statement (.deca address index) := of_assemble _

theorem enta (address : AddressField) (index : IndexField) :
    Statement (.enta address index) := of_assemble _

theorem inc1 (address : AddressField) (index : IndexField) :
    Statement (.inc1 address index) := of_assemble _

theorem dec1 (address : AddressField) (index : IndexField) :
    Statement (.dec1 address index) := of_assemble _

theorem ent1 (address : AddressField) (index : IndexField) :
    Statement (.ent1 address index) := of_assemble _

theorem inc2 (address : AddressField) (index : IndexField) :
    Statement (.inc2 address index) := of_assemble _

theorem dec2 (address : AddressField) (index : IndexField) :
    Statement (.dec2 address index) := of_assemble _

theorem ent2 (address : AddressField) (index : IndexField) :
    Statement (.ent2 address index) := of_assemble _

theorem inc3 (address : AddressField) (index : IndexField) :
    Statement (.inc3 address index) := of_assemble _

theorem dec3 (address : AddressField) (index : IndexField) :
    Statement (.dec3 address index) := of_assemble _

theorem ent3 (address : AddressField) (index : IndexField) :
    Statement (.ent3 address index) := of_assemble _

theorem inc4 (address : AddressField) (index : IndexField) :
    Statement (.inc4 address index) := of_assemble _

theorem dec4 (address : AddressField) (index : IndexField) :
    Statement (.dec4 address index) := of_assemble _

theorem ent4 (address : AddressField) (index : IndexField) :
    Statement (.ent4 address index) := of_assemble _

theorem inc5 (address : AddressField) (index : IndexField) :
    Statement (.inc5 address index) := of_assemble _

theorem dec5 (address : AddressField) (index : IndexField) :
    Statement (.dec5 address index) := of_assemble _

theorem ent5 (address : AddressField) (index : IndexField) :
    Statement (.ent5 address index) := of_assemble _

theorem inc6 (address : AddressField) (index : IndexField) :
    Statement (.inc6 address index) := of_assemble _

theorem dec6 (address : AddressField) (index : IndexField) :
    Statement (.dec6 address index) := of_assemble _

theorem ent6 (address : AddressField) (index : IndexField) :
    Statement (.ent6 address index) := of_assemble _

theorem incx (address : AddressField) (index : IndexField) :
    Statement (.incx address index) := of_assemble _

theorem decx (address : AddressField) (index : IndexField) :
    Statement (.decx address index) := of_assemble _

theorem entx (address : AddressField) (index : IndexField) :
    Statement (.entx address index) := of_assemble _

theorem cmpa (address : AddressField) (index : IndexField) (modifier : ModifierField) :
    Statement (.cmpa address index modifier) := of_assemble _

theorem cmp1 (address : AddressField) (index : IndexField) (modifier : ModifierField) :
    Statement (.cmp1 address index modifier) := of_assemble _

theorem cmp2 (address : AddressField) (index : IndexField) (modifier : ModifierField) :
    Statement (.cmp2 address index modifier) := of_assemble _

theorem cmp3 (address : AddressField) (index : IndexField) (modifier : ModifierField) :
    Statement (.cmp3 address index modifier) := of_assemble _

theorem cmp4 (address : AddressField) (index : IndexField) (modifier : ModifierField) :
    Statement (.cmp4 address index modifier) := of_assemble _

theorem cmp5 (address : AddressField) (index : IndexField) (modifier : ModifierField) :
    Statement (.cmp5 address index modifier) := of_assemble _

theorem cmp6 (address : AddressField) (index : IndexField) (modifier : ModifierField) :
    Statement (.cmp6 address index modifier) := of_assemble _

theorem cmpx (address : AddressField) (index : IndexField) (modifier : ModifierField) :
    Statement (.cmpx address index modifier) := of_assemble _

end Sys2Proof.Laws.EncodedFields
end

