-- ==== Sys2Proof/Laws/Step.lean ====
section
/-! SUPPORT. Everything a step can do around the meaning of an instruction, once. -/

namespace Sys2Proof.Machine

theorem step_of_halted {s : State} (h : s.status = .halted) : step s = .next s := by
  simp [step, cycle, h]

theorem step_of_faulted {s : State} (h : s.status = .faulted) : step s = .next s := by
  simp [step, cycle, h]

theorem step_of_running {s : State} (h : s.status = .running) : step s = runningStep exec s := by
  simp [step, cycle, h]

/-- The step of a running machine that fetches the word `w`. -/
theorem step_of_fetch {s : State} {w : Word} (hs : s.status = .running) (hp : s.pc ≠ Config.haltAddr)
    (hw : memRead s.pc s = some w) : step s = runWord exec w s := by
  simp [step_of_running hs, runningStep, hp, hw]

/-- Everything a step can be: nothing, a halt at pc = 0, a fetch fault, or the run of a fetched word. -/
theorem step_cases (s : State) :
    (s.status ≠ .running ∧ step s = .next s) ∨
    (s.status = .running ∧ s.pc = Config.haltAddr ∧ step s = .next (halt s)) ∨
    (s.status = .running ∧ s.pc ≠ Config.haltAddr ∧ Config.memSize ≤ s.pc.toNat ∧
      step s = .next (raise .addressFault none s)) ∨
    (∃ w, s.status = .running ∧ s.pc ≠ Config.haltAddr ∧ memRead s.pc s = some w ∧
      step s = runWord exec w s) := by
  cases hs : s.status with
  | halted => exact .inl ⟨by simp, step_of_halted hs⟩
  | faulted => exact .inl ⟨by simp, step_of_faulted hs⟩
  | running =>
    by_cases hp : s.pc = Config.haltAddr
    · exact .inr (.inl ⟨rfl, hp, by simp [step_of_running hs, runningStep, hp]⟩)
    · cases hw : memRead s.pc s with
      | none =>
        exact .inr (.inr (.inl ⟨rfl, hp, memRead_eq_none.1 hw,
          by simp [step_of_running hs, runningStep, hp, hw]⟩))
      | some w => exact .inr (.inr (.inr ⟨w, rfl, hp, rfl, step_of_fetch hs hp hw⟩))

/-- Everything the run of a word can end in. -/
theorem runWord_cases {meaning : Instr → State → Result} {w : Word} {s t : State}
    (h : runWord meaning w s = .next t) :
    (∃ why, decode w = .reject why ∧ t = raise .decodeFault none s) ∨
    (∃ i u, decode w = .instr i ∧ meaning i s = .next u ∧ t = haltCheck u) := by
  unfold runWord at h
  cases hd : decode w with
  | reject why =>
    rw [hd] at h
    injection h with h
    exact .inl ⟨why, rfl, h.symm⟩
  | instr i =>
    rw [hd] at h
    cases hm : meaning i s with
    | next u =>
      simp only [hm, afterExecution] at h
      injection h with h
      exact .inr ⟨i, u, rfl, hm, h.symm⟩
    | fault f => exact nomatch f
    | refused f => simp [hm, afterExecution] at h

/-- The core's step is the machine's. -/
theorem core_step : Sys2Proof.core.step = step := rfl

/-- A run of one more step than a run from the next state. -/
theorem run_succ {s t : State} (n : Nat) (h : step s = .next t) :
    Host.Core.run Sys2Proof.core (n + 1) s = Host.Core.run Sys2Proof.core n t := by
  have general (M : Host.Core) (s t : M.State) (h : M.step s = .next t) :
      M.run (n + 1) s = M.run n t := by
    rw [Host.Core.run, h]
  exact general Sys2Proof.core s t h

end Sys2Proof.Machine
end

