-- ==== Sys2Proof/Tests/Slice0.lean ====
section
/-! SUPPORT. Tests: the decoding of a word written out for every constructor, the well-formedness checks,
one step of every instruction with the result a vector of 95_test_vectors.md gives (the vector's id stands
in the docstring) or a hand calculation from its rule, and a witness for the hypotheses of every
statement. -/

namespace Sys2Proof.Tests

open Sys2Proof Sys2Proof.Machine Sys2Proof.Statements

/-! ### Helpers -/

/-- The next state of an answer. -/
def next? (r : Result) : Option State :=
  match r with
  | .next t => some t
  | .fault _ => none
  | .refused _ => none

/-- `s` with M[a] = w. -/
def holding (a : Nat) (w : Word) (s : State) : State := { s with mem := writeWord s.mem a w }

/-- The reset state with `w` at M[1], where it fetches. -/
def fetching (w : Word) : State := holding 1 w State.reset

/-- One step of the word `w` placed at M[pc] of `s`, seen through `f`. -/
def stepped {α : Type} (w : Nat) (s : State) (f : State → α) : Option α :=
  (next? (step (s.withFetchWord 64 w))).map f

/-- What one step of the word `w` at M[1] of the reset state with A = 1 reports. -/
def reported (w : Nat) : Option (FaultCause × Option Word) :=
  (stepped w { State.reset with a := 1 } (fun t => t.fault.map fun r => (r.cause, r.ea))).join

theorem fetches_fetching (w : Word) : Fetches w (fetching w) :=
  ⟨rfl, (by decide : (1 : Word) ≠ 0), (by decide : 1 < Config.memSize), readWord_writeWord_same [] 1 w⟩

/-! ### Decoding

Each word is written byte by byte from 30_encoding.md: address A1 A2 A3 A4 A5, index 05, then the modifier
(5A where any will do) and the opcode of the row. -/

theorem test_decode_add :
    decode 0xA1A2A3A4A5055A01 = .instr (.add 0xA1A2A3A4A5 0x05 0x5A) ∧
      encode (.add 0xA1A2A3A4A5 0x05 0x5A) = 0xA1A2A3A4A5055A01 := by decide
theorem test_decode_sub :
    decode 0xA1A2A3A4A5055A02 = .instr (.sub 0xA1A2A3A4A5 0x05 0x5A) ∧
      encode (.sub 0xA1A2A3A4A5 0x05 0x5A) = 0xA1A2A3A4A5055A02 := by decide
theorem test_decode_mul :
    decode 0xA1A2A3A4A5055A03 = .instr (.mul 0xA1A2A3A4A5 0x05 0x5A) ∧
      encode (.mul 0xA1A2A3A4A5 0x05 0x5A) = 0xA1A2A3A4A5055A03 := by decide
theorem test_decode_div :
    decode 0xA1A2A3A4A5055A04 = .instr (.div 0xA1A2A3A4A5 0x05 0x5A) ∧
      encode (.div 0xA1A2A3A4A5 0x05 0x5A) = 0xA1A2A3A4A5055A04 := by decide
theorem test_decode_lda :
    decode 0xA1A2A3A4A5055A08 = .instr (.lda 0xA1A2A3A4A5 0x05 0x5A) ∧
      encode (.lda 0xA1A2A3A4A5 0x05 0x5A) = 0xA1A2A3A4A5055A08 := by decide
theorem test_decode_ld1 :
    decode 0xA1A2A3A4A5055A09 = .instr (.ld1 0xA1A2A3A4A5 0x05 0x5A) ∧
      encode (.ld1 0xA1A2A3A4A5 0x05 0x5A) = 0xA1A2A3A4A5055A09 := by decide
theorem test_decode_ld2 :
    decode 0xA1A2A3A4A5055A0A = .instr (.ld2 0xA1A2A3A4A5 0x05 0x5A) ∧
      encode (.ld2 0xA1A2A3A4A5 0x05 0x5A) = 0xA1A2A3A4A5055A0A := by decide
theorem test_decode_ld3 :
    decode 0xA1A2A3A4A5055A0B = .instr (.ld3 0xA1A2A3A4A5 0x05 0x5A) ∧
      encode (.ld3 0xA1A2A3A4A5 0x05 0x5A) = 0xA1A2A3A4A5055A0B := by decide
theorem test_decode_ld4 :
    decode 0xA1A2A3A4A5055A0C = .instr (.ld4 0xA1A2A3A4A5 0x05 0x5A) ∧
      encode (.ld4 0xA1A2A3A4A5 0x05 0x5A) = 0xA1A2A3A4A5055A0C := by decide
theorem test_decode_ld5 :
    decode 0xA1A2A3A4A5055A0D = .instr (.ld5 0xA1A2A3A4A5 0x05 0x5A) ∧
      encode (.ld5 0xA1A2A3A4A5 0x05 0x5A) = 0xA1A2A3A4A5055A0D := by decide
theorem test_decode_ld6 :
    decode 0xA1A2A3A4A5055A0E = .instr (.ld6 0xA1A2A3A4A5 0x05 0x5A) ∧
      encode (.ld6 0xA1A2A3A4A5 0x05 0x5A) = 0xA1A2A3A4A5055A0E := by decide
theorem test_decode_ldx :
    decode 0xA1A2A3A4A5055A0F = .instr (.ldx 0xA1A2A3A4A5 0x05 0x5A) ∧
      encode (.ldx 0xA1A2A3A4A5 0x05 0x5A) = 0xA1A2A3A4A5055A0F := by decide
theorem test_decode_sta :
    decode 0xA1A2A3A4A5055A18 = .instr (.sta 0xA1A2A3A4A5 0x05 0x5A) ∧
      encode (.sta 0xA1A2A3A4A5 0x05 0x5A) = 0xA1A2A3A4A5055A18 := by decide
theorem test_decode_st1 :
    decode 0xA1A2A3A4A5055A19 = .instr (.st1 0xA1A2A3A4A5 0x05 0x5A) ∧
      encode (.st1 0xA1A2A3A4A5 0x05 0x5A) = 0xA1A2A3A4A5055A19 := by decide
theorem test_decode_st2 :
    decode 0xA1A2A3A4A5055A1A = .instr (.st2 0xA1A2A3A4A5 0x05 0x5A) ∧
      encode (.st2 0xA1A2A3A4A5 0x05 0x5A) = 0xA1A2A3A4A5055A1A := by decide
theorem test_decode_st3 :
    decode 0xA1A2A3A4A5055A1B = .instr (.st3 0xA1A2A3A4A5 0x05 0x5A) ∧
      encode (.st3 0xA1A2A3A4A5 0x05 0x5A) = 0xA1A2A3A4A5055A1B := by decide
theorem test_decode_st4 :
    decode 0xA1A2A3A4A5055A1C = .instr (.st4 0xA1A2A3A4A5 0x05 0x5A) ∧
      encode (.st4 0xA1A2A3A4A5 0x05 0x5A) = 0xA1A2A3A4A5055A1C := by decide
theorem test_decode_st5 :
    decode 0xA1A2A3A4A5055A1D = .instr (.st5 0xA1A2A3A4A5 0x05 0x5A) ∧
      encode (.st5 0xA1A2A3A4A5 0x05 0x5A) = 0xA1A2A3A4A5055A1D := by decide
theorem test_decode_st6 :
    decode 0xA1A2A3A4A5055A1E = .instr (.st6 0xA1A2A3A4A5 0x05 0x5A) ∧
      encode (.st6 0xA1A2A3A4A5 0x05 0x5A) = 0xA1A2A3A4A5055A1E := by decide
theorem test_decode_stx :
    decode 0xA1A2A3A4A5055A1F = .instr (.stx 0xA1A2A3A4A5 0x05 0x5A) ∧
      encode (.stx 0xA1A2A3A4A5 0x05 0x5A) = 0xA1A2A3A4A5055A1F := by decide
theorem test_decode_stj :
    decode 0xA1A2A3A4A5055A20 = .instr (.stj 0xA1A2A3A4A5 0x05 0x5A) ∧
      encode (.stj 0xA1A2A3A4A5 0x05 0x5A) = 0xA1A2A3A4A5055A20 := by decide
theorem test_decode_stz :
    decode 0xA1A2A3A4A5055A21 = .instr (.stz 0xA1A2A3A4A5 0x05 0x5A) ∧
      encode (.stz 0xA1A2A3A4A5 0x05 0x5A) = 0xA1A2A3A4A5055A21 := by decide
theorem test_decode_jmp :
    decode 0xA1A2A3A4A5050027 = .instr (.jmp 0xA1A2A3A4A5 0x05) ∧
      encode (.jmp 0xA1A2A3A4A5 0x05) = 0xA1A2A3A4A5050027 := by decide
theorem test_decode_jsj :
    decode 0xA1A2A3A4A5050127 = .instr (.jsj 0xA1A2A3A4A5 0x05) ∧
      encode (.jsj 0xA1A2A3A4A5 0x05) = 0xA1A2A3A4A5050127 := by decide
theorem test_decode_jl :
    decode 0xA1A2A3A4A5050427 = .instr (.jl 0xA1A2A3A4A5 0x05) ∧
      encode (.jl 0xA1A2A3A4A5 0x05) = 0xA1A2A3A4A5050427 := by decide
theorem test_decode_je :
    decode 0xA1A2A3A4A5050527 = .instr (.je 0xA1A2A3A4A5 0x05) ∧
      encode (.je 0xA1A2A3A4A5 0x05) = 0xA1A2A3A4A5050527 := by decide
theorem test_decode_jg :
    decode 0xA1A2A3A4A5050627 = .instr (.jg 0xA1A2A3A4A5 0x05) ∧
      encode (.jg 0xA1A2A3A4A5 0x05) = 0xA1A2A3A4A5050627 := by decide
theorem test_decode_jge :
    decode 0xA1A2A3A4A5050727 = .instr (.jge 0xA1A2A3A4A5 0x05) ∧
      encode (.jge 0xA1A2A3A4A5 0x05) = 0xA1A2A3A4A5050727 := by decide
theorem test_decode_jne :
    decode 0xA1A2A3A4A5050827 = .instr (.jne 0xA1A2A3A4A5 0x05) ∧
      encode (.jne 0xA1A2A3A4A5 0x05) = 0xA1A2A3A4A5050827 := by decide
theorem test_decode_jle :
    decode 0xA1A2A3A4A5050927 = .instr (.jle 0xA1A2A3A4A5 0x05) ∧
      encode (.jle 0xA1A2A3A4A5 0x05) = 0xA1A2A3A4A5050927 := by decide
theorem test_decode_reserved40 :
    decode 0xA1A2A3A4A5055A28 = .instr (.reserved40 0xA1A2A3A4A5 0x05 0x5A) ∧
      encode (.reserved40 0xA1A2A3A4A5 0x05 0x5A) = 0xA1A2A3A4A5055A28 := by decide
theorem test_decode_inca :
    decode 0xA1A2A3A4A5050030 = .instr (.inca 0xA1A2A3A4A5 0x05) ∧
      encode (.inca 0xA1A2A3A4A5 0x05) = 0xA1A2A3A4A5050030 := by decide
theorem test_decode_deca :
    decode 0xA1A2A3A4A5050130 = .instr (.deca 0xA1A2A3A4A5 0x05) ∧
      encode (.deca 0xA1A2A3A4A5 0x05) = 0xA1A2A3A4A5050130 := by decide
theorem test_decode_enta :
    decode 0xA1A2A3A4A5050230 = .instr (.enta 0xA1A2A3A4A5 0x05) ∧
      encode (.enta 0xA1A2A3A4A5 0x05) = 0xA1A2A3A4A5050230 := by decide
theorem test_decode_inc1 :
    decode 0xA1A2A3A4A5050031 = .instr (.inc1 0xA1A2A3A4A5 0x05) ∧
      encode (.inc1 0xA1A2A3A4A5 0x05) = 0xA1A2A3A4A5050031 := by decide
theorem test_decode_dec1 :
    decode 0xA1A2A3A4A5050131 = .instr (.dec1 0xA1A2A3A4A5 0x05) ∧
      encode (.dec1 0xA1A2A3A4A5 0x05) = 0xA1A2A3A4A5050131 := by decide
theorem test_decode_ent1 :
    decode 0xA1A2A3A4A5050231 = .instr (.ent1 0xA1A2A3A4A5 0x05) ∧
      encode (.ent1 0xA1A2A3A4A5 0x05) = 0xA1A2A3A4A5050231 := by decide
theorem test_decode_inc2 :
    decode 0xA1A2A3A4A5050032 = .instr (.inc2 0xA1A2A3A4A5 0x05) ∧
      encode (.inc2 0xA1A2A3A4A5 0x05) = 0xA1A2A3A4A5050032 := by decide
theorem test_decode_dec2 :
    decode 0xA1A2A3A4A5050132 = .instr (.dec2 0xA1A2A3A4A5 0x05) ∧
      encode (.dec2 0xA1A2A3A4A5 0x05) = 0xA1A2A3A4A5050132 := by decide
theorem test_decode_ent2 :
    decode 0xA1A2A3A4A5050232 = .instr (.ent2 0xA1A2A3A4A5 0x05) ∧
      encode (.ent2 0xA1A2A3A4A5 0x05) = 0xA1A2A3A4A5050232 := by decide
theorem test_decode_inc3 :
    decode 0xA1A2A3A4A5050033 = .instr (.inc3 0xA1A2A3A4A5 0x05) ∧
      encode (.inc3 0xA1A2A3A4A5 0x05) = 0xA1A2A3A4A5050033 := by decide
theorem test_decode_dec3 :
    decode 0xA1A2A3A4A5050133 = .instr (.dec3 0xA1A2A3A4A5 0x05) ∧
      encode (.dec3 0xA1A2A3A4A5 0x05) = 0xA1A2A3A4A5050133 := by decide
theorem test_decode_ent3 :
    decode 0xA1A2A3A4A5050233 = .instr (.ent3 0xA1A2A3A4A5 0x05) ∧
      encode (.ent3 0xA1A2A3A4A5 0x05) = 0xA1A2A3A4A5050233 := by decide
theorem test_decode_inc4 :
    decode 0xA1A2A3A4A5050034 = .instr (.inc4 0xA1A2A3A4A5 0x05) ∧
      encode (.inc4 0xA1A2A3A4A5 0x05) = 0xA1A2A3A4A5050034 := by decide
theorem test_decode_dec4 :
    decode 0xA1A2A3A4A5050134 = .instr (.dec4 0xA1A2A3A4A5 0x05) ∧
      encode (.dec4 0xA1A2A3A4A5 0x05) = 0xA1A2A3A4A5050134 := by decide
theorem test_decode_ent4 :
    decode 0xA1A2A3A4A5050234 = .instr (.ent4 0xA1A2A3A4A5 0x05) ∧
      encode (.ent4 0xA1A2A3A4A5 0x05) = 0xA1A2A3A4A5050234 := by decide
theorem test_decode_inc5 :
    decode 0xA1A2A3A4A5050035 = .instr (.inc5 0xA1A2A3A4A5 0x05) ∧
      encode (.inc5 0xA1A2A3A4A5 0x05) = 0xA1A2A3A4A5050035 := by decide
theorem test_decode_dec5 :
    decode 0xA1A2A3A4A5050135 = .instr (.dec5 0xA1A2A3A4A5 0x05) ∧
      encode (.dec5 0xA1A2A3A4A5 0x05) = 0xA1A2A3A4A5050135 := by decide
theorem test_decode_ent5 :
    decode 0xA1A2A3A4A5050235 = .instr (.ent5 0xA1A2A3A4A5 0x05) ∧
      encode (.ent5 0xA1A2A3A4A5 0x05) = 0xA1A2A3A4A5050235 := by decide
theorem test_decode_inc6 :
    decode 0xA1A2A3A4A5050036 = .instr (.inc6 0xA1A2A3A4A5 0x05) ∧
      encode (.inc6 0xA1A2A3A4A5 0x05) = 0xA1A2A3A4A5050036 := by decide
theorem test_decode_dec6 :
    decode 0xA1A2A3A4A5050136 = .instr (.dec6 0xA1A2A3A4A5 0x05) ∧
      encode (.dec6 0xA1A2A3A4A5 0x05) = 0xA1A2A3A4A5050136 := by decide
theorem test_decode_ent6 :
    decode 0xA1A2A3A4A5050236 = .instr (.ent6 0xA1A2A3A4A5 0x05) ∧
      encode (.ent6 0xA1A2A3A4A5 0x05) = 0xA1A2A3A4A5050236 := by decide
theorem test_decode_incx :
    decode 0xA1A2A3A4A5050037 = .instr (.incx 0xA1A2A3A4A5 0x05) ∧
      encode (.incx 0xA1A2A3A4A5 0x05) = 0xA1A2A3A4A5050037 := by decide
theorem test_decode_decx :
    decode 0xA1A2A3A4A5050137 = .instr (.decx 0xA1A2A3A4A5 0x05) ∧
      encode (.decx 0xA1A2A3A4A5 0x05) = 0xA1A2A3A4A5050137 := by decide
theorem test_decode_entx :
    decode 0xA1A2A3A4A5050237 = .instr (.entx 0xA1A2A3A4A5 0x05) ∧
      encode (.entx 0xA1A2A3A4A5 0x05) = 0xA1A2A3A4A5050237 := by decide
theorem test_decode_cmpa :
    decode 0xA1A2A3A4A5055A38 = .instr (.cmpa 0xA1A2A3A4A5 0x05 0x5A) ∧
      encode (.cmpa 0xA1A2A3A4A5 0x05 0x5A) = 0xA1A2A3A4A5055A38 := by decide
theorem test_decode_cmp1 :
    decode 0xA1A2A3A4A5055A39 = .instr (.cmp1 0xA1A2A3A4A5 0x05 0x5A) ∧
      encode (.cmp1 0xA1A2A3A4A5 0x05 0x5A) = 0xA1A2A3A4A5055A39 := by decide
theorem test_decode_cmp2 :
    decode 0xA1A2A3A4A5055A3A = .instr (.cmp2 0xA1A2A3A4A5 0x05 0x5A) ∧
      encode (.cmp2 0xA1A2A3A4A5 0x05 0x5A) = 0xA1A2A3A4A5055A3A := by decide
theorem test_decode_cmp3 :
    decode 0xA1A2A3A4A5055A3B = .instr (.cmp3 0xA1A2A3A4A5 0x05 0x5A) ∧
      encode (.cmp3 0xA1A2A3A4A5 0x05 0x5A) = 0xA1A2A3A4A5055A3B := by decide
theorem test_decode_cmp4 :
    decode 0xA1A2A3A4A5055A3C = .instr (.cmp4 0xA1A2A3A4A5 0x05 0x5A) ∧
      encode (.cmp4 0xA1A2A3A4A5 0x05 0x5A) = 0xA1A2A3A4A5055A3C := by decide
theorem test_decode_cmp5 :
    decode 0xA1A2A3A4A5055A3D = .instr (.cmp5 0xA1A2A3A4A5 0x05 0x5A) ∧
      encode (.cmp5 0xA1A2A3A4A5 0x05 0x5A) = 0xA1A2A3A4A5055A3D := by decide
theorem test_decode_cmp6 :
    decode 0xA1A2A3A4A5055A3E = .instr (.cmp6 0xA1A2A3A4A5 0x05 0x5A) ∧
      encode (.cmp6 0xA1A2A3A4A5 0x05 0x5A) = 0xA1A2A3A4A5055A3E := by decide
theorem test_decode_cmpx :
    decode 0xA1A2A3A4A5055A3F = .instr (.cmpx 0xA1A2A3A4A5 0x05 0x5A) ∧
      encode (.cmpx 0xA1A2A3A4A5 0x05 0x5A) = 0xA1A2A3A4A5055A3F := by decide

/-- The opcodes at the ends of the ranges of 30_encoding.md R84. -/
theorem test_reject_illegal_opcode :
    [0x0, 0x5, 0x7, 0x10, 0x17, 0x22, 0x26, 0x40, 0xFF].map (fun w : Word => decode w) =
      List.replicate 9 (.reject .illegalOpcode) := by decide

/-- 45_jump.md R225, vectors F20 and F21. -/
theorem test_reject_unlisted_jump_opcode :
    decode 0x29 = .reject .unlistedJumpOpcode ∧ decode 0x2F = .reject .unlistedJumpOpcode := by decide

/-- Vectors J30 to J32, and modifier 255. -/
theorem test_reject_bad_jump_modifier :
    [0x14000227, 0x14000327, 0x14000A27, 0x1400FF27].map (fun w : Word => decode w) =
      List.replicate 4 (.reject .badJumpModifier) := by decide

/-- Vectors I18 to I20. -/
theorem test_reject_bad_inc_dec_enter_modifier :
    [0x5000330, 0xFF0331, 0x500FF37].map (fun w : Word => decode w) =
      List.replicate 3 (.reject .badIncDecEnterModifier) := by decide

/-- The host's view: a row's word, and a word that is no instruction. -/
theorem test_decode_table_word :
    decodeTableWord 64 0x14010009 = some (.ld1 20 1 0) ∧ decodeTableWord 64 0x29 = none := by decide

/-! ### Well-formedness: each check refuses an ill-formed term -/

theorem test_wf_standard_form :
    (Instr.lda 10 7 0).wellFormed = false ∧ (Instr.stz 5 8 0).wellFormed = false ∧
      (Instr.jl 20 7).wellFormed = false ∧ (Instr.enta 5 255).wellFormed = false ∧
      (Instr.cmpx 10 7 0).wellFormed = false ∧ (Instr.lda 10 6 0).wellFormed = true := by decide

theorem test_wf_arithmetic_form :
    (Instr.add 10 6 0).wellFormed = false ∧ (Instr.div 200 9 0).wellFormed = false ∧
      (Instr.add 10 5 0).wellFormed = true := by decide

theorem test_wf_reserved_opcode : (Instr.reserved40 20 200 9).wellFormed = true := by decide

/-! ### One step of every instruction -/

/-- A3. -/
theorem test_step_add :
    stepped 0xA010001 (holding 13 0x3E8 (holding 12 0x64 (holding 10 7 { State.reset with a := 5, i1 := 2, i2 := 3 })))
      (fun t => (t.a, t.pc)) = some (0x3ED, 2) := by decide
/-- A5. -/
theorem test_step_add_a5 :
    stepped 0xC050001 (holding 11 9 { State.reset with a := 5, i6 := 0xFFFFFFFFFFFFFFFF })
      (fun t => (t.a, t.pc)) = some (14, 2) := by decide
/-- A8. -/
theorem test_step_sub :
    stepped 0xA000002 (holding 10 5 { State.reset with a := 3 })
      (fun t => (t.a, t.pc)) = some (0xFFFFFFFFFFFFFFFE, 2) := by decide
/-- A12. -/
theorem test_step_mul :
    stepped 0xA000003 (holding 10 0xFFFFFFFFFFFFFFFF { State.reset with a := 0xFFFFFFFFFFFFFFFF })
      (fun t => (t.a, t.pc)) = some (1, 2) := by decide
/-- A13. -/
theorem test_step_mul_a13 :
    stepped 0xA000003 (holding 10 0x100000001 { State.reset with a := 0x100000001 })
      (fun t => (t.a, t.pc)) = some (0x200000001, 2) := by decide
/-- A15. -/
theorem test_step_div :
    stepped 0xA000004 (holding 10 2 { State.reset with a := 0xFFFFFFFFFFFFFFFF })
      (fun t => (t.a, t.pc)) = some (0x7FFFFFFFFFFFFFFF, 2) := by decide
/-- A16. -/
theorem test_step_div_a16 :
    stepped 0xA000004 (holding 10 5 { State.reset with a := 3 })
      (fun t => (t.a, t.pc)) = some (0, 2) := by decide
/-- L1. -/
theorem test_step_lda :
    stepped 0xA000008 (holding 10 0xFFFFFFFFFFFFFFFF { State.reset with a := 5 })
      (fun t => (t.a, t.pc)) = some (0xFFFFFFFFFFFFFFFF, 2) := by decide
/-- L10. -/
theorem test_step_lda_l10 :
    stepped 0x1000008 State.reset
      (fun t => (t.a, t.pc)) = some (0x1000008, 2) := by decide
/-- L2. -/
theorem test_step_ld1 :
    stepped 0xA000009 (holding 10 0x123456789ABCDEF State.reset)
      (fun t => (t.i1, t.pc)) = some (0x123456789ABCDEF, 2) := by decide
/-- L9. -/
theorem test_step_ld2 :
    stepped 0xA02000A (holding 14 85 { State.reset with i2 := 4 })
      (fun t => (t.i2, t.pc)) = some (85, 2) := by decide
/-- L4. -/
theorem test_step_ld3 :
    stepped 0xA00000B (holding 10 0x123456789ABCDEF State.reset)
      (fun t => (t.i3, t.pc)) = some (0x123456789ABCDEF, 2) := by decide
/-- L5. -/
theorem test_step_ld4 :
    stepped 0xA00000C (holding 10 0x123456789ABCDEF State.reset)
      (fun t => (t.i4, t.pc)) = some (0x123456789ABCDEF, 2) := by decide
/-- L6. -/
theorem test_step_ld5 :
    stepped 0xA00000D (holding 10 0x123456789ABCDEF State.reset)
      (fun t => (t.i5, t.pc)) = some (0x123456789ABCDEF, 2) := by decide
/-- L7. -/
theorem test_step_ld6 :
    stepped 0xA00000E (holding 10 0x123456789ABCDEF State.reset)
      (fun t => (t.i6, t.pc)) = some (0x123456789ABCDEF, 2) := by decide
/-- L8. -/
theorem test_step_ldx :
    stepped 0xA00000F (holding 10 0x8000000000000000 State.reset)
      (fun t => (t.x, t.pc)) = some (0x8000000000000000, 2) := by decide
/-- W12. -/
theorem test_step_sta :
    stepped 0xA060018 { State.reset with a := 34, i6 := 80 }
      (fun t => (readWord t.mem 90, t.pc)) = some (34, 2) := by decide
/-- W18. -/
theorem test_step_sta_w18 :
    stepped 0x1E000518 { State.reset with a := 0x102030405060708 }
      (fun t => (readWord t.mem 30, t.pc)) = some (0x102030405060708, 2) := by decide
/-- W2. -/
theorem test_step_st1 :
    stepped 0x1E000019 { State.reset with i1 := 0x101 }
      (fun t => (readWord t.mem 30, t.pc)) = some (0x101, 2) := by decide
/-- W3. -/
theorem test_step_st2 :
    stepped 0x1E00001A { State.reset with i2 := 0x102 }
      (fun t => (readWord t.mem 30, t.pc)) = some (0x102, 2) := by decide
/-- W4. -/
theorem test_step_st3 :
    stepped 0x1E00001B { State.reset with i3 := 0x103 }
      (fun t => (readWord t.mem 30, t.pc)) = some (0x103, 2) := by decide
/-- W5. -/
theorem test_step_st4 :
    stepped 0x1E00001C { State.reset with i4 := 0x104 }
      (fun t => (readWord t.mem 30, t.pc)) = some (0x104, 2) := by decide
/-- W6. -/
theorem test_step_st5 :
    stepped 0x1E00001D { State.reset with i5 := 0x105 }
      (fun t => (readWord t.mem 30, t.pc)) = some (0x105, 2) := by decide
/-- W7. -/
theorem test_step_st6 :
    stepped 0x1E00001E { State.reset with i6 := 0x106 }
      (fun t => (readWord t.mem 30, t.pc)) = some (0x106, 2) := by decide
/-- W8. -/
theorem test_step_stx :
    stepped 0x1E00001F { State.reset with x := 0xFFFFFFFFFFFFFFFF }
      (fun t => (readWord t.mem 30, t.pc)) = some (0xFFFFFFFFFFFFFFFF, 2) := by decide
/-- W9. -/
theorem test_step_stj :
    stepped 0x1E000020 { State.reset with j := 8 }
      (fun t => (readWord t.mem 30, t.pc)) = some (8, 2) := by decide
/-- W10. -/
theorem test_step_stz :
    stepped 0x1E000021 (holding 30 0xFFFF { State.reset with a := 7 })
      (fun t => (readWord t.mem 30, t.pc)) = some (0, 2) := by decide
/-- W14. -/
theorem test_step_stz_w14 :
    stepped 0x1000021 State.reset
      (fun t => (readWord t.mem 1, t.pc)) = some (0, 2) := by decide
/-- J21. -/
theorem test_step_jmp :
    stepped 0xA020027 { State.reset with pc := 6, i2 := 5 }
      (fun t => (t.j, t.pc)) = some (7, 15) := by decide
/-- J24. -/
theorem test_step_jmp_j24 :
    stepped 0x27 (holding 0 40 { State.reset with pc := 6 })
      (fun t => (t.j, t.pc, t.status)) = some (7, 0, .halted) := by decide
/-- J22. -/
theorem test_step_jsj :
    stepped 0x60127 { State.reset with pc := 30, i6 := 9, j := 68 }
      (fun t => (t.j, t.pc)) = some (68, 9) := by decide
/-- J25. -/
theorem test_step_jsj_j25 :
    stepped 0x127 { State.reset with pc := 6, j := 68 }
      (fun t => (t.j, t.pc, t.status)) = some (68, 0, .halted) := by decide
/-- J3. -/
theorem test_step_jl :
    stepped 0x14000427 { State.reset with pc := 6, ci := .less }
      (fun t => (t.j, t.pc)) = some (7, 20) := by decide
/-- J4. -/
theorem test_step_jl_j4 :
    stepped 0x14000427 { State.reset with pc := 6, ci := .equal }
      (fun t => (t.j, t.pc)) = some (0, 7) := by decide
/-- J7. -/
theorem test_step_je :
    stepped 0x14000527 { State.reset with pc := 6, ci := .equal }
      (fun t => (t.j, t.pc)) = some (7, 20) := by decide
/-- J8. -/
theorem test_step_je_j8 :
    stepped 0x14000527 { State.reset with pc := 6, ci := .greater }
      (fun t => (t.j, t.pc)) = some (0, 7) := by decide
/-- J11. -/
theorem test_step_jg :
    stepped 0x14000627 { State.reset with pc := 6, ci := .greater }
      (fun t => (t.j, t.pc)) = some (7, 20) := by decide
/-- J10. -/
theorem test_step_jg_j10 :
    stepped 0x14000627 { State.reset with pc := 6, ci := .equal }
      (fun t => (t.j, t.pc)) = some (0, 7) := by decide
/-- J13. -/
theorem test_step_jge :
    stepped 0x14000727 { State.reset with pc := 6, ci := .equal }
      (fun t => (t.j, t.pc)) = some (7, 20) := by decide
/-- J12. -/
theorem test_step_jge_j12 :
    stepped 0x14000727 { State.reset with pc := 6, ci := .less }
      (fun t => (t.j, t.pc)) = some (0, 7) := by decide
/-- J17. -/
theorem test_step_jne :
    stepped 0x14000827 { State.reset with pc := 6, ci := .greater }
      (fun t => (t.j, t.pc)) = some (7, 20) := by decide
/-- J16. -/
theorem test_step_jne_j16 :
    stepped 0x14000827 { State.reset with pc := 6, ci := .equal }
      (fun t => (t.j, t.pc)) = some (0, 7) := by decide
/-- J18. -/
theorem test_step_jle :
    stepped 0x14000927 { State.reset with pc := 6, ci := .less }
      (fun t => (t.j, t.pc)) = some (7, 20) := by decide
/-- J20. -/
theorem test_step_jle_j20 :
    stepped 0x14000927 { State.reset with pc := 6, ci := .greater }
      (fun t => (t.j, t.pc)) = some (0, 7) := by decide
/-- I4. -/
theorem test_step_inca :
    stepped 0x1000030 { State.reset with a := 0xFFFFFFFFFFFFFFFF }
      (fun t => (t.a, t.pc)) = some (0, 2) := by decide
/-- I5. -/
theorem test_step_deca :
    stepped 0x1000130 { State.reset with a := 0 }
      (fun t => (t.a, t.pc)) = some (0xFFFFFFFFFFFFFFFF, 2) := by decide
/-- F11. -/
theorem test_step_enta :
    stepped 0x5000230 { State.reset with pc := 99 }
      (fun t => (t.a, t.pc)) = some (5, 100) := by decide
/-- I9. -/
theorem test_step_inc1 :
    stepped 0x10031 { State.reset with i1 := 21 }
      (fun t => (t.i1, t.pc)) = some (42, 2) := by decide
/-- I7. -/
theorem test_step_dec1 :
    stepped 0x1000131 { State.reset with i1 := 0 }
      (fun t => (t.i1, t.pc)) = some (0xFFFFFFFFFFFFFFFF, 2) := by decide
/-- I8. -/
theorem test_step_ent1 :
    stepped 0x7000231 { State.reset with i1 := 99 }
      (fun t => (t.i1, t.pc)) = some (7, 2) := by decide
/-- By hand from R177: EA = 3 + I[5] = 7. -/
theorem test_step_inc2 :
    stepped 0x3050032 { State.reset with i5 := 4, i2 := 9 }
      (fun t => (t.i2, t.pc)) = some (16, 2) := by decide
/-- By hand from R178: EA = 3 + I[5] = 7. -/
theorem test_step_dec2 :
    stepped 0x3050132 { State.reset with i5 := 4, i2 := 9 }
      (fun t => (t.i2, t.pc)) = some (2, 2) := by decide
/-- I10. -/
theorem test_step_ent2 :
    stepped 0x3010232 { State.reset with i1 := 40 }
      (fun t => (t.i2, t.pc)) = some (43, 2) := by decide
/-- By hand from R180: EA = 3 + I[5] = 7. -/
theorem test_step_inc3 :
    stepped 0x3050033 { State.reset with i5 := 4, i3 := 9 }
      (fun t => (t.i3, t.pc)) = some (16, 2) := by decide
/-- By hand from R181: EA = 3 + I[5] = 7. -/
theorem test_step_dec3 :
    stepped 0x3050133 { State.reset with i5 := 4, i3 := 9 }
      (fun t => (t.i3, t.pc)) = some (2, 2) := by decide
/-- I11. -/
theorem test_step_ent3 :
    stepped 0x30233 { State.reset with i3 := 9 }
      (fun t => (t.pc)) = some (2) := by decide
/-- By hand from R183: EA = 3 + I[5] = 7. -/
theorem test_step_inc4 :
    stepped 0x3050034 { State.reset with i5 := 4, i4 := 9 }
      (fun t => (t.i4, t.pc)) = some (16, 2) := by decide
/-- I12. -/
theorem test_step_dec4 :
    stepped 0x2040134 { State.reset with i4 := 50 }
      (fun t => (t.i4, t.pc)) = some (0xFFFFFFFFFFFFFFFE, 2) := by decide
/-- By hand from R185: EA = 3 + I[5] = 7. -/
theorem test_step_ent4 :
    stepped 0x3050234 { State.reset with i5 := 4, i4 := 9 }
      (fun t => (t.i4, t.pc)) = some (7, 2) := by decide
/-- By hand from R186: EA = 3 + I[5] = 7. -/
theorem test_step_inc5 :
    stepped 0x3050035 { State.reset with i5 := 4 }
      (fun t => (t.i5, t.pc)) = some (11, 2) := by decide
/-- By hand from R187: EA = 3 + I[5] = 7. -/
theorem test_step_dec5 :
    stepped 0x3050135 { State.reset with i5 := 4 }
      (fun t => (t.i5, t.pc)) = some (0xFFFFFFFFFFFFFFFD, 2) := by decide
/-- I13. -/
theorem test_step_ent5 :
    stepped 0x3E8000235 State.reset
      (fun t => (t.i5, t.pc)) = some (0x3E8, 2) := by decide
/-- I13. -/
theorem test_step_ent5_i13 :
    stepped 0x3E8000235 State.reset
      (fun t => (t.i5, t.pc)) = some (0x3E8, 2) := by decide
/-- I14. -/
theorem test_step_inc6 :
    stepped 0xFFFFFFFFFF000036 { State.reset with i6 := 1 }
      (fun t => (t.i6, t.pc)) = some (0x10000000000, 2) := by decide
/-- I14. -/
theorem test_step_inc6_i14 :
    stepped 0xFFFFFFFFFF000036 { State.reset with i6 := 1 }
      (fun t => (t.i6, t.pc)) = some (0x10000000000, 2) := by decide
/-- By hand from R190: EA = 3 + I[5] = 7. -/
theorem test_step_dec6 :
    stepped 0x3050136 { State.reset with i5 := 4, i6 := 9 }
      (fun t => (t.i6, t.pc)) = some (2, 2) := by decide
/-- By hand from R191: EA = 3 + I[5] = 7. -/
theorem test_step_ent6 :
    stepped 0x3050236 { State.reset with i5 := 4, i6 := 9 }
      (fun t => (t.i6, t.pc)) = some (7, 2) := by decide
/-- I16. -/
theorem test_step_incx :
    stepped 0x2000037 { State.reset with x := 3 }
      (fun t => (t.x, t.pc)) = some (5, 2) := by decide
/-- I17. -/
theorem test_step_decx :
    stepped 0x2000137 { State.reset with x := 3 }
      (fun t => (t.x, t.pc)) = some (1, 2) := by decide
/-- I15. -/
theorem test_step_entx :
    stepped 0xC060237 { State.reset with i6 := 0xFFFFFFFFFFFFFFFF }
      (fun t => (t.x, t.pc)) = some (11, 2) := by decide
/-- C4. -/
theorem test_step_cmpa :
    stepped 0xA000038 (holding 10 1 { State.reset with a := 0xFFFFFFFFFFFFFFFF })
      (fun t => (t.ci, t.pc)) = some (.greater, 2) := by decide
/-- C6. -/
theorem test_step_cmpa_c6 :
    stepped 0xA000038 (holding 10 0 { State.reset with a := 0, ci := .greater })
      (fun t => (t.ci, t.pc)) = some (.equal, 2) := by decide
/-- C14. -/
theorem test_step_cmp1 :
    stepped 0xA010039 (holding 15 5 { State.reset with i1 := 5, ci := .less })
      (fun t => (t.ci, t.pc)) = some (.equal, 2) := by decide
/-- C8. -/
theorem test_step_cmp2 :
    stepped 0x3200003A (holding 50 3 { State.reset with i2 := 2 })
      (fun t => (t.ci, t.pc)) = some (.less, 2) := by decide
/-- C9. -/
theorem test_step_cmp3 :
    stepped 0x3200003B (holding 50 3 { State.reset with i3 := 3 })
      (fun t => (t.pc)) = some (2) := by decide
/-- C10. -/
theorem test_step_cmp4 :
    stepped 0x3200003C (holding 50 3 { State.reset with i4 := 4 })
      (fun t => (t.ci, t.pc)) = some (.greater, 2) := by decide
/-- C11. -/
theorem test_step_cmp5 :
    stepped 0x3200003D (holding 50 3 { State.reset with i5 := 5 })
      (fun t => (t.ci, t.pc)) = some (.greater, 2) := by decide
/-- C12. -/
theorem test_step_cmp6 :
    stepped 0x3200003E (holding 50 3 { State.reset with i6 := 6 })
      (fun t => (t.ci, t.pc)) = some (.greater, 2) := by decide
/-- C13. -/
theorem test_step_cmpx :
    stepped 0xA00003F (holding 10 2 { State.reset with x := 1 })
      (fun t => (t.ci, t.pc)) = some (.less, 2) := by decide
/-- F24. -/
theorem test_step_reserved40 : reported 0x14C80928 = some (.unimplemented, none) := by decide

/-! ### Faults and the ends of a run -/

/-- F1 (the all-zero word) and J35 (opcode 41). -/
theorem test_decode_fault :
    reported 0x0 = some (.decodeFault, none) ∧ reported 0x14000029 = some (.decodeFault, none) := by decide

/-- L14, W17, A20, I21, C16 and J33. -/
theorem test_index_fault :
    [0xA09000F, 0x5080021, 0xA060001, 0x5070230, 0xA07003F, 0x14070427].map reported =
      List.replicate 6 (some (.indexFault, none)) := by decide

/-- L12, W15 and C15. -/
theorem test_address_fault :
    [0x64000008, 0x64000018, 0x64000038].map reported =
      List.replicate 3 (some (.addressFault, some 100)) := by decide

/-- A19. -/
theorem test_arithmetic_fault : reported 0xA000004 = some (.arithmeticFault, none) := by decide

/-- A22 and A23: IndexFault before AddressFault before ArithmeticFault. -/
theorem test_fault_priority :
    reported 0xC8090004 = some (.indexFault, none) ∧
      reported 0x64000004 = some (.addressFault, some 100) := by decide

/-- L12: the whole state of a fault. -/
theorem test_fault_changes_nothing_else :
    next? (step (fetching 0x64000008)) =
      some
        { fetching 0x64000008 with
          status := .faulted
          fault := some
            { cause := .addressFault, pc := 1, word := some 0x64000008, ea := some 100 } } := by decide

/-- F12: a fetch past the last word. -/
theorem test_fetch_fault :
    next? (step { State.reset with pc := 100 }) =
      some
        { State.reset with
          pc := 100
          status := .faulted
          fault := some { cause := .addressFault, pc := 100, word := none, ea := none } } := by decide

/-- 40_fetch_dispatch.md R107, before the fetch. -/
theorem test_halt_at_zero :
    next? (step { State.reset with pc := 0 }) = some { State.reset with pc := 0, status := .halted } := by
  decide

/-- 70_reset_and_hazards.md R276: the host loads two words, and the run of them halts. -/
theorem test_run_of_a_loaded_program :
    (next? (run 3 (loaded [(⟨1, by decide⟩, 0x5000230), (⟨2, by decide⟩, 0x127)]))).map
      (fun t => (t.a, t.pc, t.status)) = some (5, 0, .halted) := by decide

/-! ### Witnesses: a concrete state and operands that meet the hypotheses of each statement -/

theorem witness_EncodeOfDecodeIsTheWord : decode 0x14010009 = .instr (.ld1 20 1 0) := by decide

/-- One word at each end of each range. -/
theorem witness_IllegalOpcodesRaiseDecodeFault :
    (Fetches 0x0 (fetching 0x0) ∧ (0x0 : Word).toNat % 2 ^ 8 = 0) ∧
      (Fetches 0x105 (fetching 0x105) ∧ (0x105 : Word).toNat % 2 ^ 8 = 5) ∧
      (Fetches 0x107 (fetching 0x107) ∧ (0x107 : Word).toNat % 2 ^ 8 = 7) ∧
      (Fetches 0x110 (fetching 0x110) ∧ (0x110 : Word).toNat % 2 ^ 8 = 16) ∧
      (Fetches 0x117 (fetching 0x117) ∧ (0x117 : Word).toNat % 2 ^ 8 = 23) ∧
      (Fetches 0x122 (fetching 0x122) ∧ (0x122 : Word).toNat % 2 ^ 8 = 34) ∧
      (Fetches 0x126 (fetching 0x126) ∧ (0x126 : Word).toNat % 2 ^ 8 = 38) ∧
      (Fetches 0x140 (fetching 0x140) ∧ (0x140 : Word).toNat % 2 ^ 8 = 64) ∧
      (Fetches 0x1FF (fetching 0x1FF) ∧ (0x1FF : Word).toNat % 2 ^ 8 = 255) := by
  refine ⟨?_, ?_, ?_, ?_, ?_, ?_, ?_, ?_, ?_⟩ <;> exact ⟨fetches_fetching _, by decide⟩

theorem witness_UnlistedJumpRangeOpcodesRaiseDecodeFault :
    (Fetches 0x29 (fetching 0x29) ∧ (0x29 : Word).toNat % 2 ^ 8 = 41) ∧
      (Fetches 0x2F (fetching 0x2F) ∧ (0x2F : Word).toNat % 2 ^ 8 = 47) :=
  ⟨⟨fetches_fetching _, by decide⟩, fetches_fetching _, by decide⟩

/-- Opcode 39 with modifiers 2, 3, 10 and 255; opcodes 48 and 55 with modifiers 3 and 255. -/
theorem witness_UnlistedModifiersRaiseDecodeFault :
    (Fetches 0x227 (fetching 0x227) ∧ (0x227 : Word).toNat % 2 ^ 8 = 39 ∧
        (0x227 : Word).toNat / 2 ^ 8 % 2 ^ 8 = 2) ∧
      (Fetches 0x327 (fetching 0x327) ∧ (0x327 : Word).toNat % 2 ^ 8 = 39 ∧
        (0x327 : Word).toNat / 2 ^ 8 % 2 ^ 8 = 3) ∧
      (Fetches 0xA27 (fetching 0xA27) ∧ (0xA27 : Word).toNat % 2 ^ 8 = 39 ∧
        (0xA27 : Word).toNat / 2 ^ 8 % 2 ^ 8 = 10) ∧
      (Fetches 0xFF27 (fetching 0xFF27) ∧ (0xFF27 : Word).toNat % 2 ^ 8 = 39 ∧
        (0xFF27 : Word).toNat / 2 ^ 8 % 2 ^ 8 = 255) ∧
      (Fetches 0x330 (fetching 0x330) ∧ (0x330 : Word).toNat % 2 ^ 8 = 48 ∧
        (0x330 : Word).toNat / 2 ^ 8 % 2 ^ 8 = 3) ∧
      (Fetches 0xFF30 (fetching 0xFF30) ∧ (0xFF30 : Word).toNat % 2 ^ 8 = 48 ∧
        (0xFF30 : Word).toNat / 2 ^ 8 % 2 ^ 8 = 255) ∧
      (Fetches 0x337 (fetching 0x337) ∧ (0x337 : Word).toNat % 2 ^ 8 = 55 ∧
        (0x337 : Word).toNat / 2 ^ 8 % 2 ^ 8 = 3) ∧
      (Fetches 0xFF37 (fetching 0xFF37) ∧ (0xFF37 : Word).toNat % 2 ^ 8 = 55 ∧
        (0xFF37 : Word).toNat / 2 ^ 8 % 2 ^ 8 = 255) := by
  refine ⟨?_, ?_, ?_, ?_, ?_, ?_, ?_, ?_⟩ <;> exact ⟨fetches_fetching _, by decide⟩

theorem witness_ReservedOpcodeRaisesUnimplemented :
    Fetches 0x14C80928 (fetching 0x14C80928) ∧ (0x14C80928 : Word).toNat % 2 ^ 8 = 40 :=
  ⟨fetches_fetching _, by decide⟩

/-- The state whose I[k] is 10 * k. -/
def indexed : State := { State.reset with i1 := 10, i2 := 20, i3 := 30, i4 := 40, i5 := 50, i6 := 60 }

/-- Each clause, with the sum it gives; index 7 and 255 for the last. -/
theorem witness_StandardEffectiveAddress :
    [(0 : Byte), 1, 2, 3, 4, 5, 6, 7, 255].map (fun k => (k.toNat, eaStd 3 k indexed)) =
      [(0, some 3), (1, some 13), (2, some 23), (3, some 33), (4, some 43), (5, some 53), (6, some 63),
        (7, none), (255, none)] := by decide

/-- Each clause, with the sum it gives; index 6 and 255 for the last. -/
theorem witness_ArithmeticEffectiveAddress :
    [(0 : Byte), 1, 2, 3, 4, 5, 6, 255].map (fun k => (k.toNat, eaArith 3 k indexed)) =
      [(0, some 13), (1, some 23), (2, some 33), (3, some 43), (4, some 53), (5, some 63), (6, none),
        (255, none)] := by decide

/-- Each outcome at the ends of its range, in a state whose CI it is. -/
theorem witness_FlagOutcomesAndTheJumpsTheyTake :
    ((0 : Word).toNat < (0xFFFFFFFFFFFFFFFF : Word).toNat ∧
        { indexed with ci := .less }.ci = cmp3 0 0xFFFFFFFFFFFFFFFF ∧
        eaStd 20 6 { indexed with ci := .less } = some 80) ∧
      ((5 : Word).toNat = (5 : Word).toNat ∧ { indexed with ci := .equal }.ci = cmp3 5 5 ∧
        eaStd 20 0 { indexed with ci := .equal } = some 20) ∧
      ((0x8000000000000000 : Word).toNat > (0x7FFFFFFFFFFFFFFF : Word).toNat ∧
        { indexed with ci := .greater }.ci = cmp3 0x8000000000000000 0x7FFFFFFFFFFFFFFF ∧
        eaStd 20 1 { indexed with ci := .greater } = some 30) := by decide

/-- The lowest and the highest word, the latter unindexed and indexed. -/
theorem witness_LoadsCopyTheWordIntoTheirRegister :
    eaStd 0 0 indexed = some 0 ∧ (0 : Word).toNat < Config.memSize ∧ eaStd 99 0 indexed = some 99 ∧
      (99 : Word).toNat < Config.memSize ∧ eaStd 39 6 indexed = some 99 := by decide

theorem witness_StoresReplaceTheWord :
    eaStd 0 0 indexed = some 0 ∧ (0 : Word).toNat < Config.memSize ∧ eaStd 99 0 indexed = some 99 ∧
      (99 : Word).toNat < Config.memSize ∧ eaStd 39 6 indexed = some 99 := by decide

theorem witness_AddSubMulWriteAModulo :
    eaArith 0 0 State.reset = some 0 ∧ (0 : Word).toNat < Config.memSize ∧
      eaArith 39 5 indexed = some 99 ∧ (99 : Word).toNat < Config.memSize := by decide

theorem witness_DivWritesTheFloorQuotient :
    eaArith 39 5 (holding 99 7 indexed) = some 99 ∧ (99 : Word).toNat < Config.memSize ∧
      wordAt 99 (holding 99 7 indexed) ≠ 0 := by decide

theorem witness_IncrementsAddTheAddress : eaStd 0xFFFFFFFFFF 6 indexed = some 0x1000000003B := by decide

theorem witness_DecrementsSubtractTheAddress : eaStd 0xFFFFFFFFFF 6 indexed = some 0x1000000003B := by
  decide

theorem witness_EntersWriteTheAddress : eaStd 0xFFFFFFFFFF 6 indexed = some 0x1000000003B := by decide

theorem witness_ComparesSetTheFlag :
    eaStd 0 0 indexed = some 0 ∧ (0 : Word).toNat < Config.memSize ∧ eaStd 39 6 indexed = some 99 ∧
      (99 : Word).toNat < Config.memSize := by decide

theorem witness_UnconditionalJumpsGoToTheAddress :
    eaStd 0 0 indexed = some 0 ∧ eaStd 0xFFFFFFFFFF 6 indexed = some 0x1000000003B := by decide

theorem witness_ConditionalJumpsFollowTheFlag :
    eaStd 0 0 indexed = some 0 ∧ eaStd 0xFFFFFFFFFF 6 indexed = some 0x1000000003B := by decide

theorem witness_IllFormedIndexRaisesIndexFault :
    (Instr.lda 10 7 0).wellFormed = false ∧ (Instr.jl 10 255).wellFormed = false ∧
      (Instr.add 10 6 0).wellFormed = false ∧ (Instr.div 10 255 0).wellFormed = false := by decide

/-- Both ends of each range of opcodes, at the first address outside memory and at the highest. -/
theorem witness_AccessOutsideMemoryRaisesAddressFault :
    ∀ i ∈ [Instr.add 90 0 0, .div 90 0 0, .lda 100 0 0, .ldx 90 1 0, .sta 100 0 0, .stz 90 1 0,
        .cmpa 100 0 0, .cmpx 90 1 0],
      accessesMemory (opNumber i) = true ∧ effectiveAddress i indexed = some 100 ∧
        Config.memSize ≤ (100 : Word).toNat := by decide

theorem witness_AccessOutsideMemoryRaisesAddressFault_highest :
    accessesMemory (opNumber (.lda 0 1 0)) = true ∧
      effectiveAddress (.lda 0 1 0) { indexed with i1 := 0xFFFFFFFFFFFFFFFF } = some 0xFFFFFFFFFFFFFFFF ∧
      Config.memSize ≤ (0xFFFFFFFFFFFFFFFF : Word).toNat := by decide

theorem witness_DivisionByZeroRaisesArithmeticFault :
    eaArith 39 5 indexed = some 99 ∧ (99 : Word).toNat < Config.memSize ∧ wordAt 99 indexed = 0 := by
  decide

/-- One instruction for each kind it can raise; the last reads the zero word M[99]. -/
theorem witness_FaultKindsByFamily :
    indexed.status = .running ∧
      [Instr.reserved40 0 0 0, .jl 10 7, .lda 100 0 0, .div 39 5 0].map
          (fun i => (next? (exec i indexed)).map fun t => (t.status, t.fault.map fun r => r.cause)) =
        [some (.faulted, some .unimplemented), some (.faulted, some .indexFault),
          some (.faulted, some .addressFault), some (.faulted, some .arithmeticFault)] := by decide

theorem witness_RegistersChangeOnlyAtTheDestination :
    (∃ t, exec (.lda 99 0 0) indexed = .next t) ∧ destination (.lda 99 0 0) ≠ some .i1 :=
  ⟨⟨_, rfl⟩, by decide⟩

/-- A store, for a byte of the next word, and an instruction that stores nothing. -/
theorem witness_MemoryChangesOnlyAtTheStoredWord :
    ((∃ t, exec (.sta 98 0 0) indexed = .next t) ∧
        ∀ ea, storeTarget (.sta 98 0 0) indexed = some ea → 792 / 8 ≠ ea.toNat) ∧
      ((∃ t, exec (.cmpa 98 0 0) indexed = .next t) ∧
        ∀ ea, storeTarget (.cmpa 98 0 0) indexed = some ea → 784 / 8 ≠ ea.toNat) := by
  refine ⟨⟨⟨_, rfl⟩, fun ea h => ?_⟩, ⟨_, rfl⟩, fun ea h => nomatch h⟩
  have h' : some (98 : Word) = some ea := h
  injection h' with h'
  subst h'
  decide

theorem witness_StatusAndReportChangeOnlyByAFault :
    (∃ t, exec (.lda 99 0 0) indexed = .next t) ∧ ∃ t, exec (.lda 100 0 0) indexed = .next t :=
  ⟨⟨_, rfl⟩, _, rfl⟩

theorem witness_FlagIsWrittenByComparesAndReadByConditionalJumps_step :
    (next? (step (fetching 0x1000038))).map (fun t => t.ci) = some .less ∧
      (fetching 0x1000038).ci = .equal := by
  decide

theorem witness_FlagIsWrittenByComparesAndReadByConditionalJumps_compare :
    compareOf .x 99 0 0 = some (.cmpx 99 0 0) ∧ eaStd 99 0 indexed = some 99 ∧
      (99 : Word).toNat < Config.memSize := by decide

/-- Opcode 39 with modifier 1, and an opcode other than 39. -/
theorem witness_FlagIsWrittenByComparesAndReadByConditionalJumps_others :
    (¬(opNumber (.jsj 20 0) = 39 ∧ 4 ≤ modNumber (.jsj 20 0)) ∧
        (∃ t, exec (.jsj 20 0) indexed = .next t) ∧
        ∃ u, exec (.jsj 20 0) { indexed with ci := .less } = .next u) ∧
      ¬(opNumber (.cmpa 99 0 9) = 39 ∧ 4 ≤ modNumber (.cmpa 99 0 9)) ∧
        (∃ t, exec (.cmpa 99 0 9) indexed = .next t) ∧
        ∃ u, exec (.cmpa 99 0 9) { indexed with ci := .less } = .next u :=
  ⟨⟨by decide, ⟨_, rfl⟩, _, rfl⟩, by decide, ⟨_, rfl⟩, _, rfl⟩

/-- Modifiers 4 and 9. -/
theorem witness_FlagIsWrittenByComparesAndReadByConditionalJumps_jumps :
    ∀ i ∈ [Instr.jl 20 6, .jle 20 6], opNumber i = 39 ∧ 4 ≤ modNumber i ∧ i.wellFormed = true := by
  decide

theorem witness_ReturnRegisterIsWrittenByTakenSaveAndJumpReadByStj_written :
    (next? (exec (.jmp 20 0) indexed)).map (fun t => t.j) = some 2 ∧ indexed.j = 0 := by decide

theorem witness_ReturnRegisterIsWrittenByTakenSaveAndJumpReadByStj_taken :
    opNumber (.jle 20 6) = 39 ∧ modNumber (.jle 20 6) ≠ 1 ∧
      jumpTaken (modNumber (.jle 20 6)) indexed.ci = true ∧ eaStd 20 6 indexed = some 80 := by decide

theorem witness_ReturnRegisterIsWrittenByTakenSaveAndJumpReadByStj_others :
    opNumber (.sta 99 0 0) ≠ 32 ∧ (∃ t, exec (.sta 99 0 0) indexed = .next t) ∧
      ∃ u, exec (.sta 99 0 0) { indexed with j := 5 } = .next u :=
  ⟨by decide, ⟨_, rfl⟩, _, rfl⟩

theorem witness_ReturnRegisterIsWrittenByTakenSaveAndJumpReadByStj_stj :
    eaStd 99 0 indexed = some 99 ∧ (99 : Word).toNat < Config.memSize := by decide

/-- A step that changes A, and one that changes X. -/
theorem witness_AccumulatorAndExtensionDoNotMeet_changed :
    (next? (exec (.enta 5 0) indexed)).map (fun t => t.a) = some 5 ∧
      (next? (exec (.entx 5 0) indexed)).map (fun t => t.x) = some 5 ∧ indexed.a = 0 ∧ indexed.x = 0 := by
  decide

/-- MUL with another X, and STX with another A. -/
theorem witness_AccumulatorAndExtensionDoNotMeet_others :
    ((opNumber (.mul 39 5 0) ≠ 31 ∧ opNumber (.mul 39 5 0) ≠ 63) ∧
        (∃ t, exec (.mul 39 5 0) indexed = .next t) ∧
        ∃ u, exec (.mul 39 5 0) { indexed with x := 5 } = .next u) ∧
      (opNumber (.stx 99 0 0) ≠ 24 ∧ opNumber (.stx 99 0 0) ≠ 56) ∧
        (∃ t, exec (.stx 99 0 0) indexed = .next t) ∧
        ∃ u, exec (.stx 99 0 0) { indexed with a := 5 } = .next u :=
  ⟨⟨by decide, ⟨_, rfl⟩, _, rfl⟩, by decide, ⟨_, rfl⟩, _, rfl⟩

/-- A word whose run halts, one whose run goes on and one whose run faults. -/
theorem witness_StepRunsTheDecodedInstruction :
    (Fetches 0x127 (fetching 0x127) ∧ decode 0x127 = .instr (.jsj 0 0) ∧
        (next? (exec (.jsj 0 0) (fetching 0x127))).map (fun t => (t.status, t.pc)) = some (.running, 0)) ∧
      (Fetches 0x5000230 (fetching 0x5000230) ∧ decode 0x5000230 = .instr (.enta 5 0) ∧
        (next? (exec (.enta 5 0) (fetching 0x5000230))).map (fun t => (t.status, t.pc)) =
          some (.running, 2)) ∧
      (Fetches 0x28 (fetching 0x28) ∧ decode 0x28 = .instr (.reserved40 0 0 0) ∧
        (next? (exec (.reserved40 0 0 0) (fetching 0x28))).map (fun t => t.status) = some .faulted) := by
  refine ⟨?_, ?_, ?_⟩ <;> exact ⟨fetches_fetching _, by decide, by decide⟩

theorem witness_FetchOutsideMemoryRaisesAddressFault :
    { State.reset with pc := 100 }.status = .running ∧
      Config.memSize ≤ { State.reset with pc := 100 }.pc.toNat ∧
      { State.reset with pc := 0xFFFFFFFFFFFFFFFF }.status = .running ∧
      Config.memSize ≤ { State.reset with pc := 0xFFFFFFFFFFFFFFFF }.pc.toNat := by decide

/-- A machine that has halted, and one that has faulted. -/
def halted : State := { State.reset with pc := 0, status := .halted }

def faulted : State :=
  { State.reset with
    status := .faulted
    fault := some { cause := .decodeFault, pc := 1, word := some 0, ea := none } }

theorem witness_EndedMachineStaysAsItIs : halted.status ≠ .running ∧ faulted.status ≠ .running := by decide

theorem witness_HaltingIsATakenJumpToZero_before :
    { State.reset with pc := 0 }.status = .running ∧ { State.reset with pc := 0 }.pc = 0 ∧
      halted.status = .halted := by decide

/-- A step that halts, and one that does not. -/
theorem witness_HaltingIsATakenJumpToZero_after :
    ((fetching 0x27).status = .running ∧ (fetching 0x27).pc ≠ 0 ∧
        (next? (step (fetching 0x27))).map (fun t => (t.pc, t.status, t.j)) = some (0, .halted, 2)) ∧
      ((fetching 0x30).status = .running ∧ (fetching 0x30).pc ≠ 0 ∧
        (next? (step (fetching 0x30))).map (fun t => (t.pc, t.status)) = some (2, .running)) := by decide

/-- Each of the four clauses, the second and third at the last word. -/
theorem witness_PcAdvancesByOneUnlessAJumpIsPerformed :
    { indexed with pc := 99 }.status = .running ∧ { indexed with pc := 99 }.pc.toNat < Config.memSize ∧
      (next? (exec (.lda 100 0 0) { indexed with pc := 99 })).map (fun t => t.status) = some .faulted ∧
      (next? (exec (.lda 99 0 0) { indexed with pc := 99 })).map (fun t => (t.status, t.pc)) =
        some (.running, 100) ∧
      jumpTaken (modNumber (.jl 20 0)) indexed.ci = false ∧
      (next? (exec (.jl 20 0) { indexed with pc := 99 })).map (fun t => (t.status, t.pc)) =
        some (.running, 100) ∧
      jumpTaken (modNumber (.je 20 0)) indexed.ci = true ∧
      (next? (exec (.je 20 0) { indexed with pc := 99 })).map (fun t => (t.status, t.pc)) =
        some (.running, 20) := by decide

/-- A fetched instruction that completes. -/
theorem witness_PcAdvancesByOneUnlessAJumpIsPerformed_step :
    Fetches 0x5000230 (fetching 0x5000230) ∧ decode 0x5000230 = .instr (.enta 5 0) ∧
      (∃ t, exec (.enta 5 0) (fetching 0x5000230) = .next t) ∧ ∃ u, step (fetching 0x5000230) = .next u :=
  ⟨fetches_fetching _, by decide, ⟨_, rfl⟩, _, rfl⟩

/-- A step that raises at fetch, at dispatch by the opcode and by the modifier, and in a handler. -/
theorem witness_PcAdvancesByOneUnlessAJumpIsPerformed_raises :
    [{ State.reset with pc := 100 }, fetching 0x0, fetching 0x330, fetching 0x64000008].map
        (fun s => (s.status, (next? (step s)).map fun t => t.status)) =
      List.replicate 4 (.running, some .faulted) := by decide

/-- A data access, and a fetch. -/
theorem witness_FaultsArePreciseAndHaveNoOtherEffect :
    ((fetching 0x64000008).status = .running ∧
        (next? (step (fetching 0x64000008))).map (fun t => t.status) = some .faulted) ∧
      { State.reset with pc := 100 }.status = .running ∧
        (next? (step { State.reset with pc := 100 })).map (fun t => t.status) = some .faulted := by decide

/-- The invariant of a running state with a word in memory, of a halted and of a faulted one. -/
theorem witness_StepKeepsTheInvariant_running :
    (fetching 0x64000008).Inv ∧ ∃ t, step (fetching 0x64000008) = .next t :=
  ⟨⟨by decide, by decide, by decide, by decide, fun r h => nomatch h⟩, _, rfl⟩

theorem witness_StepKeepsTheInvariant_halted : halted.Inv ∧ ∃ t, step halted = .next t :=
  ⟨⟨by decide, by decide, by decide, by decide, fun r h => nomatch h⟩, _, rfl⟩

theorem witness_StepKeepsTheInvariant_faulted : faulted.Inv ∧ ∃ t, step faulted = .next t := by
  refine ⟨⟨by decide, by decide, by decide, by decide, fun r h => ?_⟩, _, rfl⟩
  injection h with h
  subst h
  exact ⟨by decide, by decide, by decide, by decide, fun ea h => nomatch h⟩

theorem witness_StoredWordIsLoadedBack :
    storeOf .j 99 0 7 = some (.stj 99 0 7) ∧ loadOf .x 99 0 0 = some (.ldx 99 0 0) ∧
      eaStd 99 0 indexed = some 99 ∧ (99 : Word).toNat < Config.memSize := by decide

theorem witness_LoadThenStoreLeavesMemoryAsItWas :
    storeOf .i1 39 6 0 = some (.st1 39 6 0) ∧ loadOf .i1 39 6 0 = some (.ld1 39 6 0) ∧
      indexRegister (6 : Byte).toNat ≠ some .i1 ∧ (holding 99 7 indexed).mem.wf = true ∧
      eaStd 39 6 (holding 99 7 indexed) = some 99 ∧ (99 : Word).toNat < Config.memSize := by decide

theorem witness_CompareWithTheWordJustStoredGivesEqual :
    storeOf .i6 39 6 0 = some (.st6 39 6 0) ∧ compareOf .i6 39 6 0 = some (.cmp6 39 6 0) ∧
      eaStd 39 6 indexed = some 99 ∧ (99 : Word).toNat < Config.memSize := by decide

/-- Vector W13: STA 2 at M[1]. -/
theorem witness_StoreIntoTheNextInstructionIsFetched :
    Fetches 0x2000018 (fetching 0x2000018) ∧ decode 0x2000018 = .instr (.sta 2 0 0) ∧
      storeOf .a 2 0 0 = some (.sta 2 0 0) ∧
      eaStd 2 0 (fetching 0x2000018) = some ((fetching 0x2000018).pc + 1) ∧
      ((fetching 0x2000018).pc + 1).toNat < Config.memSize :=
  ⟨fetches_fetching _, by decide, by decide, by decide, by decide⟩

/-- JMP 1 at M[1]. -/
theorem witness_JumpToItselfRunsForever :
    Fetches 0x1000027 (fetching 0x1000027) ∧ decode 0x1000027 = .instr (.jmp 1 0) ∧
      eaStd 1 0 (fetching 0x1000027) = some (fetching 0x1000027).pc :=
  ⟨fetches_fetching _, by decide, by decide⟩

theorem witness_EnterIgnoresTheOldValue :
    enterOf .i5 3 6 = some (.ent5 3 6) ∧ (6 : Byte).toNat ≤ 6 ∧
      indexRegister (6 : Byte).toNat ≠ some .i5 := by decide

theorem witness_CanonicalMemoriesThatReadAlikeAreEqual :
    Memory.wf [(0, 1), (799, 2)] = true ∧ Memory.wf (writeByte (writeByte [] 799 2) 0 1) = true ∧
      ∀ k, readByte [(0, 1), (799, 2)] k = readByte (writeByte (writeByte [] 799 2) 0 1) k :=
  ⟨by decide, by decide, fun _ => rfl⟩

theorem witness_PlacedInstructionIsTheOneThatRuns :
    { State.reset with pc := 99 }.status = .running ∧ { State.reset with pc := 99 }.pc ≠ 0 ∧
      { State.reset with pc := 99 }.pc.toNat < Config.memSize ∧
      decode 0x5000230 = .instr (.enta 5 0) := by decide

end Sys2Proof.Tests
end

/-! The families of instructions: every instruction is one of seven shared operations (40_fetch_dispatch.md
R103), with its parameters. A proof about all instructions splits on the seven families, not on the 63
constructors. -/

namespace Sys2Proof.Machine

open Sys2Proof.Statements

/-! ### The families -/

/-- The shared operation of an instruction, with what the instruction chooses in it. -/
inductive Family where
  | arithmetic (op : Word → Word → Option Word)
  | load (r : Reg)
  /-- The register stored, or none for the zero of STZ. -/
  | store (source : Option Reg)
  | jump (condition : Condition) (saving : Saving)
  | reserved
  | update (op : Word → Word → Word) (r : Reg)
  | compare (r : Reg)

/-- The family of each instruction (30_encoding.md R80 to R82). -/
def familyOf : Instr → Family
  | .add _ _ _ => .arithmetic fun a v => some (a + v)
  | .sub _ _ _ => .arithmetic fun a v => some (a - v)
  | .mul _ _ _ => .arithmetic fun a v => some (a * v)
  | .div _ _ _ => .arithmetic divide
  | .lda _ _ _ => .load .a
  | .ld1 _ _ _ => .load .i1
  | .ld2 _ _ _ => .load .i2
  | .ld3 _ _ _ => .load .i3
  | .ld4 _ _ _ => .load .i4
  | .ld5 _ _ _ => .load .i5
  | .ld6 _ _ _ => .load .i6
  | .ldx _ _ _ => .load .x
  | .sta _ _ _ => .store (some .a)
  | .st1 _ _ _ => .store (some .i1)
  | .st2 _ _ _ => .store (some .i2)
  | .st3 _ _ _ => .store (some .i3)
  | .st4 _ _ _ => .store (some .i4)
  | .st5 _ _ _ => .store (some .i5)
  | .st6 _ _ _ => .store (some .i6)
  | .stx _ _ _ => .store (some .x)
  | .stj _ _ _ => .store (some .j)
  | .stz _ _ _ => .store none
  | .jmp _ _ => .jump .always .save
  | .jsj _ _ => .jump .always .keep
  | .jl _ _ => .jump .less .save
  | .je _ _ => .jump .equal .save
  | .jg _ _ => .jump .greater .save
  | .jge _ _ => .jump .notLess .save
  | .jne _ _ => .jump .notEqual .save
  | .jle _ _ => .jump .notGreater .save
  | .reserved40 _ _ _ => .reserved
  | .inca _ _ => .update incremented .a
  | .deca _ _ => .update decremented .a
  | .enta _ _ => .update entered .a
  | .inc1 _ _ => .update incremented .i1
  | .dec1 _ _ => .update decremented .i1
  | .ent1 _ _ => .update entered .i1
  | .inc2 _ _ => .update incremented .i2
  | .dec2 _ _ => .update decremented .i2
  | .ent2 _ _ => .update entered .i2
  | .inc3 _ _ => .update incremented .i3
  | .dec3 _ _ => .update decremented .i3
  | .ent3 _ _ => .update entered .i3
  | .inc4 _ _ => .update incremented .i4
  | .dec4 _ _ => .update decremented .i4
  | .ent4 _ _ => .update entered .i4
  | .inc5 _ _ => .update incremented .i5
  | .dec5 _ _ => .update decremented .i5
  | .ent5 _ _ => .update entered .i5
  | .inc6 _ _ => .update incremented .i6
  | .dec6 _ _ => .update decremented .i6
  | .ent6 _ _ => .update entered .i6
  | .incx _ _ => .update incremented .x
  | .decx _ _ => .update decremented .x
  | .entx _ _ => .update entered .x
  | .cmpa _ _ _ => .compare .a
  | .cmp1 _ _ _ => .compare .i1
  | .cmp2 _ _ _ => .compare .i2
  | .cmp3 _ _ _ => .compare .i3
  | .cmp4 _ _ _ => .compare .i4
  | .cmp5 _ _ _ => .compare .i5
  | .cmp6 _ _ _ => .compare .i6
  | .cmpx _ _ _ => .compare .x

/-- The word a store of `source` writes (41_load_store.md R140). -/
def storedWord (source : Option Reg) (s : State) : Word :=
  match source with
  | some r => s.read r
  | none => 0

/-- The shared operation of a family, on the fields of an instruction. -/
def Family.run : Family → AddressField → IndexField → State → Result
  | .arithmetic op, address, index, s => Machine.arithmetic op address index s
  | .load r, address, index, s => loadInto r address index s
  | .store source, address, index, s => storeValue (storedWord source s) address index s
  | .jump condition saving, address, index, s => jumpWhen condition saving address index s
  | .reserved, _, _, s => .next (raise .unimplemented none s)
  | .update op r, address, index, s => updateByAddress op r address index s
  | .compare r, address, index, s => compareWith r address index s

/-- The meaning of an instruction is the operation of its family. -/
theorem exec_eq_run (i : Instr) (s : State) :
    exec i s = (familyOf i).run i.address i.index s := by
  cases i <;> rfl

/-- The modifier of a jump (30_encoding.md R82); no conditional jump keeps J. -/
def jumpModifier : Condition → Saving → Nat
  | .always, .save => 0
  | .always, .keep => 1
  | .less, _ => 4
  | .equal, _ => 5
  | .greater, _ => 6
  | .notLess, _ => 7
  | .notEqual, _ => 8
  | .notGreater, _ => 9

/-- What the fields and the destination of an instruction are in each family: the opcode ranges of
30_encoding.md R80, the registers written of 10_state.md R20 to R22. -/
def Family.Describes (i : Instr) : Family → Prop
  | .arithmetic op => 1 ≤ opNumber i ∧ opNumber i ≤ 4 ∧ i.indexing = .arithmetic ∧
      destination i = some .a ∧ ∀ a b v, op a v = none → op b v = none
  | .load r => 8 ≤ opNumber i ∧ opNumber i ≤ 15 ∧ i.indexing = .standard ∧ destination i = some r
  | .store source => 24 ≤ opNumber i ∧ opNumber i ≤ 33 ∧ i.indexing = .standard ∧
      (source = some .a ↔ opNumber i = 24) ∧ (source = some .x ↔ opNumber i = 31) ∧
      (source = some .j ↔ opNumber i = 32)
  | .jump c k => opNumber i = 39 ∧ i.indexing = .standard ∧ modNumber i = jumpModifier c k ∧
      (k = .keep ↔ modNumber i = 1)
  | .reserved => opNumber i = 40
  | .update _ r => 48 ≤ opNumber i ∧ opNumber i ≤ 55 ∧ i.indexing = .standard ∧
      destination i = some r
  | .compare r => 56 ≤ opNumber i ∧ opNumber i ≤ 63 ∧ i.indexing = .standard ∧ r ≠ .j ∧
      (r = .a ↔ opNumber i = 56) ∧ (r = .x ↔ opNumber i = 63)

theorem familyOf_describes (i : Instr) : (familyOf i).Describes i := by
  cases i <;>
    simp [familyOf, Family.Describes, opNumber, opcodeOf, modNumber, modifierOf, jumpModifier,
      Instr.indexing, destination, divide_eq_none]

end Sys2Proof.Machine

/-! Everything an instruction can do to the state, once; the rules of a completed operation of each family
used below; the opcode the decoder keeps. -/

namespace Sys2Proof.Machine

open Sys2Proof.Statements

/-! ### Every effect of an instruction -/

/-- The updates an instruction can end in: a fault, one register, one word of memory, the flag, or a jump
performed or not. -/
inductive Effect (i : Instr) (s : State) : State → Prop where
  | raises (cause : FaultCause) (ea : Option Word) : Effect i s (raise cause ea s)
  | sets (r : Reg) (v : Word) (hdest : destination i = some r) (hop : opNumber i ≠ 39) :
      Effect i s (advance (s.write r v))
  | stores (ea v : Word) (htarget : storeTarget i s = some ea) (hea : ea.toNat < Config.memSize) :
      Effect i s (advance { s with mem := writeWord s.mem ea.toNat v })
  | flags (c : Comparison) (hop : 56 ≤ opNumber i ∧ opNumber i ≤ 63) :
      Effect i s (advance (setFlag c s))
  | jumps (k : Saving) (ea : Word) (hop : opNumber i = 39) (hkeep : k = .keep ↔ modNumber i = 1)
      (htaken : jumpTaken (modNumber i) s.ci = true) (hea : eaStd i.address i.index s = some ea) :
      Effect i s (jumped k ea s)
  | fallsThrough (hop : opNumber i = 39) (htaken : jumpTaken (modNumber i) s.ci = false) :
      Effect i s (advance s)

/-- The modifier of a jump is taken on the flags its condition holds of (30_encoding.md R82). -/
theorem jumpTaken_jumpModifier (c : Condition) (k : Saving) (ci : Comparison) :
    jumpTaken (jumpModifier c k) ci = conditionHolds c ci := by
  cases c <;> cases k <;> rfl

/-- Everything the meaning of an instruction can end in. -/
theorem exec_effect {i : Instr} {s t : State} (h : exec i s = .next t) : Effect i s t := by
  have hd := familyOf_describes i
  rw [exec_eq_run] at h
  cases hf : familyOf i with rw [hf] at h hd
  | arithmetic op =>
    obtain ⟨hlo, hhi, -, hdest, -⟩ := hd
    rcases arithmetic_cases h with ⟨-, rfl⟩ | ⟨_, -, -, rfl⟩ | ⟨_, -, -, -, rfl⟩ | ⟨_, _, -, -, -, rfl⟩
    · exact .raises _ _
    · exact .raises _ _
    · exact .raises _ _
    · exact .sets _ _ hdest (by omega)
  | load r =>
    obtain ⟨hlo, hhi, -, hdest⟩ := hd
    rcases loadInto_cases h with ⟨-, rfl⟩ | ⟨_, -, -, rfl⟩ | ⟨_, -, -, rfl⟩
    · exact .raises _ _
    · exact .raises _ _
    · exact .sets _ _ hdest (by omega)
  | store source =>
    obtain ⟨hlo, hhi, -⟩ := hd
    rcases storeValue_cases h with ⟨-, rfl⟩ | ⟨_, -, -, rfl⟩ | ⟨_, hea, hlt, rfl⟩
    · exact .raises _ _
    · exact .raises _ _
    · exact .stores _ _ ((if_pos ⟨hlo, hhi⟩).trans hea) hlt
  | jump c k =>
    obtain ⟨hop, -, hmod, hkeep⟩ := hd
    rcases jumpWhen_cases h with ⟨-, rfl⟩ | ⟨_, hea, hc, rfl⟩ | ⟨_, -, hc, rfl⟩
    · exact .raises _ _
    · exact .jumps k _ hop hkeep (by rw [hmod, jumpTaken_jumpModifier, hc]) hea
    · exact .fallsThrough hop (by rw [hmod, jumpTaken_jumpModifier, hc])
  | reserved =>
    obtain rfl := next_inj.1 h
    exact .raises _ _
  | update op r =>
    obtain ⟨hlo, hhi, -, hdest⟩ := hd
    rcases updateByAddress_cases h with ⟨-, rfl⟩ | ⟨_, -, rfl⟩
    · exact .raises _ _
    · exact .sets _ _ hdest (by omega)
  | compare r =>
    obtain ⟨hlo, hhi, -⟩ := hd
    rcases compareWith_cases h with ⟨-, rfl⟩ | ⟨_, -, -, rfl⟩ | ⟨_, -, -, rfl⟩
    · exact .raises _ _
    · exact .raises _ _
    · exact .flags _ ⟨hlo, hhi⟩

/-- Only jumps write J (10_state.md R22). -/
theorem destination_ne_j {i : Instr} (h : opNumber i ≠ 39) : destination i ≠ some .j := by
  cases i <;> simp [destination, opNumber, opcodeOf] at h ⊢

@[simp] theorem jumped_ci (k : Saving) (ea : Word) (s : State) : (jumped k ea s).ci = s.ci := by
  cases k <;> rfl

@[simp] theorem jumped_pc (k : Saving) (ea : Word) (s : State) : (jumped k ea s).pc = ea := by
  cases k <;> rfl

@[simp] theorem haltCheck_ci (s : State) : (haltCheck s).ci = s.ci := by
  rcases haltCheck_cases s with h | ⟨-, -, h⟩ <;> simp [h]

/-- An instruction that changes CI is a compare (10_state.md R26). -/
theorem exec_ci {i : Instr} {s t : State} (h : exec i s = .next t) (hne : t.ci ≠ s.ci) :
    56 ≤ opNumber i ∧ opNumber i ≤ 63 := by
  cases exec_effect h with
  | flags c hop => exact hop
  | raises | sets | stores | jumps | fallsThrough => simp at hne

/-- An instruction that changes J is a taken jump that saves (10_state.md R22). -/
theorem exec_j {i : Instr} {s t : State} (h : exec i s = .next t) (hne : t.j ≠ s.j) :
    opNumber i = 39 ∧ modNumber i ≠ 1 ∧ jumpTaken (modNumber i) s.ci = true ∧ t.j = s.pc + 1 := by
  cases exec_effect h with
  | raises | stores | flags | fallsThrough => simp at hne
  | sets r v hdest hop =>
    have hr : Reg.j ≠ r := fun e => destination_ne_j hop (e ▸ hdest)
    exact absurd (State.read_write_other s v hr) hne
  | jumps k ea hop hkeep htaken =>
    cases k with
    | keep => exact absurd rfl hne
    | save => exact ⟨hop, fun e => (nomatch hkeep.2 e), htaken, rfl⟩

/-! ### Completed operations -/

theorem storeValue_of_lt {address : AddressField} {index : IndexField} {s : State} {ea : Word}
    (v : Word) (hea : eaStd address index s = some ea) (hlt : ea.toNat < Config.memSize) :
    storeValue v address index s =
      .next (advance { s with mem := writeWord s.mem ea.toNat v }) := by
  simp [storeValue, hea, memWrite_eq_some.2 ⟨hlt, rfl⟩]

theorem compareWith_of_lt {address : AddressField} {index : IndexField} {s : State} {ea : Word}
    (r : Reg) (hea : eaStd address index s = some ea) (hlt : ea.toNat < Config.memSize) :
    compareWith r address index s =
      .next (advance (setFlag (cmp3 (s.read r) (wordAt ea s)) s)) := by
  rw [compareWith, hea, withOperand_of_lt _ hlt, wordAt]

theorem jumpWhen_of_holds {c : Condition} {k : Saving} {address : AddressField} {index : IndexField}
    {s : State} {ea : Word} (hea : eaStd address index s = some ea)
    (hc : conditionHolds c s.ci = true) :
    jumpWhen c k address index s = .next (jumped k ea s) := by
  simp [jumpWhen, hea, hc]

theorem jumpWhen_of_not_holds {c : Condition} {k : Saving} {address : AddressField}
    {index : IndexField} {s : State} {ea : Word} (hea : eaStd address index s = some ea)
    (hc : conditionHolds c s.ci = false) :
    jumpWhen c k address index s = .next (advance s) := by
  simp [jumpWhen, hea, hc]

/-- The comparison is less, equal or greater as the numbers are (44_compare.md R200). -/
theorem cmp3_iff (a b : Word) :
    (cmp3 a b = .less ↔ a.toNat < b.toNat) ∧ (cmp3 a b = .equal ↔ a.toNat = b.toNat) ∧
      (cmp3 a b = .greater ↔ a.toNat > b.toNat) := by
  rcases lt_trichotomy a.toNat b.toNat with h | h | h
  · simp [cmp3, h, h.ne, h.le]
  · simp [cmp3, h]
  · simp [cmp3, h, h.ne', h.not_gt]

/-- The instruction that `compareOf` names is the compare of that register. -/
theorem exec_compareOf {r : Reg} {i : Instr} {address : AddressField} {index modifier : Byte}
    (h : compareOf r address index modifier = some i) (s : State) :
    exec i s = compareWith r address index s := by
  cases r <;> cases h <;> rfl

/-- A compare inside memory sets CI and nothing else but the pc. -/
theorem compares_of_exec_eq {i : Instr} {r : Reg} {address : AddressField} {index : IndexField}
    {s : State} {ea : Word} (hi : exec i s = compareWith r address index s)
    (hea : eaStd address index s = some ea) (hlt : ea.toNat < Config.memSize) :
    Compares i s (s.read r) (wordAt ea s) :=
  ⟨_, hi.trans (compareWith_of_lt r hea hlt), rfl, cmp3_iff _ _⟩

/-- A store inside memory writes its word and nothing else but the pc. -/
theorem stores_of_exec_eq {i : Instr} {v : Word} {address : AddressField} {index : IndexField}
    {s : State} {ea : Word} (hi : exec i s = storeValue v address index s)
    (hea : eaStd address index s = some ea) (hlt : ea.toNat < Config.memSize) :
    Stores i s ea v :=
  ⟨_, hi.trans (storeValue_of_lt v hea hlt), rfl, readWord_writeWord_same _ _ _,
    fun _ hn => (readByte_writeWord _ _ _ _).trans (if_neg hn)⟩

/-- A well-formed instruction of the standard form has an effective address in every state. -/
theorem eaStd_of_wellFormed {i : Instr} (hform : i.indexing = .standard) (hwf : i.wellFormed = true)
    (s : State) : ∃ ea, eaStd i.address i.index s = some ea := by
  rw [Instr.wellFormed, hform] at hwf
  refine Option.ne_none_iff_exists'.1 fun hnone => ?_
  rw [eaStd_eq_none_iff_range, hwf] at hnone
  exact nomatch hnone

/-- An opcode 39 is a jump, whose condition and saving its modifier gives (30_encoding.md R82). -/
theorem exec_of_opNumber_39 {i : Instr} (h : opNumber i = 39) :
    i.indexing = .standard ∧ ∃ c k, modNumber i = jumpModifier c k ∧ (k = .keep ↔ modNumber i = 1) ∧
      ∀ s, exec i s = jumpWhen c k i.address i.index s := by
  have hd := familyOf_describes i
  cases hf : familyOf i with rw [hf] at hd
  | jump c k =>
    obtain ⟨-, hform, hmod, hkeep⟩ := hd
    exact ⟨hform, c, k, hmod, hkeep, fun s => by rw [exec_eq_run, hf]; rfl⟩
  | arithmetic | load | store | reserved | update | compare =>
    simp only [Family.Describes] at hd
    omega

/-- The conditional jumps are those with a modifier of 4 or more (30_encoding.md R82). -/
theorem four_le_jumpModifier {c : Condition} {k : Saving} :
    4 ≤ jumpModifier c k ↔ c ≠ .always := by
  cases c <;> cases k <;> decide

/-- A condition that can fail holds of one flag and not of another. -/
theorem exists_flag_taken_and_not {c : Condition} (h : c ≠ .always) :
    ∃ yes no, conditionHolds c yes = true ∧ conditionHolds c no = false := by
  cases c with
  | always => exact absurd rfl h
  | less => exact ⟨.less, .equal, rfl, rfl⟩
  | equal => exact ⟨.equal, .less, rfl, rfl⟩
  | greater => exact ⟨.greater, .less, rfl, rfl⟩
  | notLess => exact ⟨.equal, .less, rfl, rfl⟩
  | notEqual => exact ⟨.less, .equal, rfl, rfl⟩
  | notGreater => exact ⟨.less, .greater, rfl, rfl⟩

/-! ### The opcode of a decoded word -/

theorem opcodeField_toNat (w : Word) : (opcodeField w).toNat = w.toNat % 2 ^ 8 := by
  simp [opcodeField]

theorem opNumber_of_decodeJump {address : AddressField} {index : IndexField}
    {modifier : ModifierField} {i : Instr} (h : decodeJump address index modifier = .instr i) :
    opNumber i = 39 := by
  unfold decodeJump at h
  split at h <;> cases h <;> rfl

theorem opNumber_of_decodeIncDecEnter {increment decrement enter i : Instr} {modifier : ModifierField}
    {n : Nat} (h : decodeIncDecEnter increment decrement enter modifier = .instr i)
    (hinc : opNumber increment = n) (hdec : opNumber decrement = n) (hent : opNumber enter = n) :
    opNumber i = n := by
  rcases decodeIncDecEnter_cases increment decrement enter modifier with
    ⟨-, hd⟩ | ⟨-, hd⟩ | ⟨-, hd⟩ | ⟨-, hd⟩ <;> rw [hd] at h
  · exact Decoded.instr.inj h ▸ hinc
  · exact Decoded.instr.inj h ▸ hdec
  · exact Decoded.instr.inj h ▸ hent
  · exact nomatch h

/-- The decoder keeps the opcode: the one of the instruction is the one of the word. -/
theorem opNumber_of_decode {w : Word} {i : Instr} (h : decode w = .instr i) :
    opNumber i = w.toNat % 2 ^ 8 := by
  rw [← opcodeField_toNat]
  unfold decode at h
  split at h
  all_goals rename_i hop; first
    | exact (opNumber_of_decodeJump h).trans hop.symm
    | exact (opNumber_of_decodeIncDecEnter h rfl rfl rfl).trans hop.symm
    | (cases h <;> exact hop.symm)

end Sys2Proof.Machine

/-! What an instruction does not read. Two states that differ in one part are run side by side; where the
instruction does not read the part, the next states differ in that part alone. -/

namespace Sys2Proof.Machine

open Sys2Proof.Statements

/-- The next states of two answers, where both have one, are related. -/
def RelatedResults (R : State → State → Prop) (p q : Result) : Prop :=
  ∀ t u, p = .next t → q = .next u → R t u

theorem relatedResults_next {R : State → State → Prop} {t u : State} (h : R t u) :
    RelatedResults R (.next t) (.next u) := by
  intro t' u' ht hu
  obtain rfl := next_inj.1 ht
  obtain rfl := next_inj.1 hu
  exact h

/-- Related states have the same index registers and memory, and stay related by a fault: what the checks
in front of an operation read and write (40_fetch_dispatch.md R103). -/
structure KeptByChecks (R : State → State → Prop) : Prop where
  index_eq : ∀ {s t r}, R s t → r ≠ .a → r ≠ .x → r ≠ .j → t.read r = s.read r
  mem_eq : ∀ {s t}, R s t → t.mem = s.mem
  raise_raise : ∀ {s t} k ea, R s t → R (raise k ea s) (raise k ea t)

section Checks

variable {R : State → State → Prop} {s t : State}

theorem KeptByChecks.eaStd_eq (hR : KeptByChecks R) (h : R s t) (address : AddressField)
    (index : IndexField) : eaStd address index t = eaStd address index s :=
  eaStd_congr fun _ => hR.index_eq h

theorem KeptByChecks.eaArith_eq (hR : KeptByChecks R) (h : R s t) (address : AddressField)
    (index : IndexField) : eaArith address index t = eaArith address index s :=
  eaArith_congr fun _ => hR.index_eq h

theorem KeptByChecks.withAddress (hR : KeptByChecks R) (h : R s t) {e e' : Option Word} (he : e' = e)
    {f g : Word → Result} (hfg : ∀ ea, RelatedResults R (f ea) (g ea)) :
    RelatedResults R (Machine.withAddress e s f) (Machine.withAddress e' t g) := by
  subst he
  cases e' with
  | none => exact relatedResults_next (hR.raise_raise _ _ h)
  | some ea => exact hfg ea

theorem KeptByChecks.withOperand (hR : KeptByChecks R) (h : R s t) {e e' : Option Word} (he : e' = e)
    {f g : Word → Result} (hfg : ∀ v, RelatedResults R (f v) (g v)) :
    RelatedResults R (Machine.withOperand e s f) (Machine.withOperand e' t g) := by
  refine hR.withAddress h he fun ea => ?_
  have hmem : memRead ea t = memRead ea s := by simp only [memRead, hR.mem_eq h]
  rw [hmem]
  cases memRead ea s with
  | none => exact relatedResults_next (hR.raise_raise _ _ h)
  | some v => exact hfg v

/-- A store of one value keeps states related whose completed stores are related. -/
theorem KeptByChecks.storeValue (hR : KeptByChecks R) (h : R s t) (v : Word) (address : AddressField)
    (index : IndexField)
    (hstore : ∀ m, R (advance { s with mem := m }) (advance { t with mem := m })) :
    RelatedResults R (Machine.storeValue v address index s) (Machine.storeValue v address index t) := by
  refine hR.withAddress h (hR.eaStd_eq h _ _) fun ea => ?_
  by_cases hlt : ea.toNat < Config.memSize
  · rw [memWrite_eq_some.2 ⟨hlt, rfl⟩, memWrite_eq_some.2 ⟨hlt, rfl⟩, hR.mem_eq h]
    exact relatedResults_next (hstore _)
  · rw [memWrite_eq_none.2 (not_lt.1 hlt), memWrite_eq_none.2 (not_lt.1 hlt)]
    exact relatedResults_next (hR.raise_raise _ _ h)

end Checks

/-! ### The flag -/

/-- The states differ in CI alone. -/
def DifferInFlag (s t : State) : Prop := ∃ c, t = { s with ci := c }

theorem DifferInFlag.read_eq {s t : State} (h : DifferInFlag s t) (r : Reg) : t.read r = s.read r := by
  obtain ⟨c, rfl⟩ := h
  cases r <;> rfl

theorem DifferInFlag.a_eq {s t : State} (h : DifferInFlag s t) : t.a = s.a := h.read_eq .a

theorem DifferInFlag.advance_write {s t : State} (h : DifferInFlag s t) (r : Reg) (v : Word) :
    DifferInFlag (advance (s.write r v)) (advance (t.write r v)) := by
  obtain ⟨c, rfl⟩ := h
  exact ⟨c, by cases r <;> rfl⟩

theorem DifferInFlag.keptByChecks : KeptByChecks DifferInFlag where
  index_eq h _ _ _ := h.read_eq _
  mem_eq := by rintro s _ ⟨c, rfl⟩; rfl
  raise_raise := by rintro s _ k ea ⟨c, rfl⟩; exact ⟨c, rfl⟩

/-- An instruction other than a conditional jump does not read CI (10_state.md R26). -/
theorem exec_differInFlag {i : Instr} {s t : State} (hi : ¬(opNumber i = 39 ∧ 4 ≤ modNumber i))
    (h : DifferInFlag s t) : RelatedResults DifferInFlag (exec i s) (exec i t) := by
  have hR := DifferInFlag.keptByChecks
  have hd := familyOf_describes i
  rw [exec_eq_run, exec_eq_run]
  cases hf : familyOf i with rw [hf] at hd
  | arithmetic op =>
    refine hR.withOperand h (hR.eaArith_eq h _ _) fun v => ?_
    rw [h.a_eq]
    cases op s.a v with
    | none => exact relatedResults_next (hR.raise_raise _ _ h)
    | some w => exact relatedResults_next (h.advance_write _ _)
  | load r =>
    exact hR.withOperand h (hR.eaStd_eq h _ _) fun v => relatedResults_next (h.advance_write _ _)
  | store source =>
    have hv : storedWord source t = storedWord source s := by
      cases source with
      | none => rfl
      | some r => exact h.read_eq r
    simp only [Family.run, hv]
    refine hR.storeValue h _ _ _ fun m => ?_
    obtain ⟨c, rfl⟩ := h
    exact ⟨c, rfl⟩
  | jump c k =>
    obtain ⟨hop, -, hmod, -⟩ := hd
    have hc : c = .always := by
      by_contra hne
      exact hi ⟨hop, hmod ▸ four_le_jumpModifier.2 hne⟩
    subst hc
    refine hR.withAddress h (hR.eaStd_eq h _ _) fun ea => relatedResults_next ?_
    obtain ⟨d, rfl⟩ := h
    exact ⟨d, by cases k <;> rfl⟩
  | reserved => exact relatedResults_next (hR.raise_raise _ _ h)
  | update op r =>
    refine hR.withAddress h (hR.eaStd_eq h _ _) fun ea => relatedResults_next ?_
    rw [h.read_eq]
    exact h.advance_write _ _
  | compare r =>
    refine hR.withOperand h (hR.eaStd_eq h _ _) fun v => relatedResults_next ?_
    obtain ⟨c, rfl⟩ := h
    exact ⟨_, rfl⟩

/-! ### A register that no address uses -/

/-- Writes to two registers commute. -/
theorem State.write_write_comm (s : State) {r q : Reg} (h : r ≠ q) (v w : Word) :
    (s.write q v).write r w = (s.write r w).write q v := by
  cases r <;> cases q <;> first | rfl | exact absurd rfl h

/-- The states differ in register `q` alone. -/
def DifferInRegister (q : Reg) (s t : State) : Prop := ∃ v, t = s.write q v

section Register

variable {q : Reg} {s t : State}

theorem DifferInRegister.read_eq (h : DifferInRegister q s t) {r : Reg} (hr : r ≠ q) :
    t.read r = s.read r := by
  obtain ⟨v, rfl⟩ := h
  exact s.read_write_other v hr

/-- Updates that touch no register keep the difference where it is. -/
theorem DifferInRegister.update (h : DifferInRegister q s t) (f : State → State)
    (hf : ∀ v, f (s.write q v) = (f s).write q v) : DifferInRegister q (f s) (f t) := by
  obtain ⟨v, rfl⟩ := h
  exact ⟨v, hf v⟩

theorem DifferInRegister.advance (h : DifferInRegister q s t) :
    DifferInRegister q (advance s) (advance t) :=
  h.update _ fun _ => by cases q <;> rfl

/-- Writing the register they differ in, or one value to any other, leaves the states differing in it. -/
theorem DifferInRegister.write (h : DifferInRegister q s t) (r : Reg) {v w : Word}
    (hvw : r ≠ q → w = v) : DifferInRegister q (s.write r v) (t.write r w) := by
  obtain ⟨x, rfl⟩ := h
  by_cases hr : r = q
  · subst hr
    exact ⟨w, by cases r <;> rfl⟩
  · obtain rfl := hvw hr
    exact ⟨x, State.write_write_comm s hr x w⟩

theorem DifferInRegister.jumped (h : DifferInRegister q s t) (k : Saving) (ea : Word) :
    DifferInRegister q (jumped k ea s) (jumped k ea t) := by
  have hjump : ∀ v (s : State), jumpTo ea (s.write q v) = (jumpTo ea s).write q v :=
    fun v s => by cases q <;> rfl
  cases k with
  | keep => exact h.update (jumpTo ea) fun v => hjump v s
  | save =>
    have hpc : t.pc = s.pc := by
      obtain ⟨v, rfl⟩ := h
      exact s.write_pc q v
    exact (h.write .j fun _ => by rw [hpc]).update (jumpTo ea) fun v => hjump v _

theorem DifferInRegister.keptByChecks (hq : q = .a ∨ q = .x ∨ q = .j) :
    KeptByChecks (DifferInRegister q) where
  index_eq h ha hx hj := h.read_eq (by rcases hq with rfl | rfl | rfl <;> assumption)
  mem_eq := by rintro s _ ⟨v, rfl⟩; exact s.write_mem q v
  raise_raise k ea h := h.update (raise k ea) fun _ => by cases q <;> rfl

/-- Of A, X and J, a register that an instruction neither stores nor compares reaches no other part of the
state (10_state.md R20, R22). -/
theorem exec_differInRegister {i : Instr} (hq : q = .a ∨ q = .x ∨ q = .j)
    (hstore : familyOf i ≠ .store (some q)) (hcompare : familyOf i ≠ .compare q)
    (h : DifferInRegister q s t) : RelatedResults (DifferInRegister q) (exec i s) (exec i t) := by
  have hR := DifferInRegister.keptByChecks hq
  have hd := familyOf_describes i
  rw [exec_eq_run, exec_eq_run]
  cases hf : familyOf i with rw [hf] at hd hstore hcompare
  | arithmetic op =>
    obtain ⟨-, -, -, -, hop⟩ := hd
    refine hR.withOperand h (hR.eaArith_eq h _ _) fun v => ?_
    have ha : Reg.a ≠ q → op t.a v = op s.a v := fun hne => congrArg (op · v) (h.read_eq hne)
    cases hs : op s.a v with
    | none =>
      rw [hop s.a t.a v hs]
      exact relatedResults_next (hR.raise_raise _ _ h)
    | some x =>
      cases ht : op t.a v with
      | none => exact absurd (hs.symm.trans (hop t.a s.a v ht)) (by simp)
      | some y =>
        have hxy (hne : Reg.a ≠ q) : y = x :=
          Option.some.inj (ht.symm.trans ((ha hne).trans hs))
        exact relatedResults_next (h.write .a hxy).advance
  | load r =>
    exact hR.withOperand h (hR.eaStd_eq h _ _) fun v =>
      relatedResults_next (h.write r fun _ => rfl).advance
  | store source =>
    have hv : storedWord source t = storedWord source s := by
      cases source with
      | none => rfl
      | some r => exact h.read_eq fun e => hstore (e ▸ rfl)
    simp only [Family.run, hv]
    exact hR.storeValue h _ _ _ fun m =>
      h.update (fun s => advance { s with mem := m }) fun _ => by cases q <;> rfl
  | jump c k =>
    refine hR.withAddress h (hR.eaStd_eq h _ _) fun ea => ?_
    have hci : t.ci = s.ci := by
      obtain ⟨v, rfl⟩ := h
      exact s.write_ci q v
    rw [hci]
    split
    · exact relatedResults_next (h.jumped k ea)
    · exact relatedResults_next h.advance
  | reserved => exact relatedResults_next (hR.raise_raise _ _ h)
  | update op r =>
    refine hR.withAddress h (hR.eaStd_eq h _ _) fun ea => relatedResults_next ?_
    exact (h.write r fun hne => by rw [h.read_eq hne]).advance
  | compare r =>
    refine hR.withOperand h (hR.eaStd_eq h _ _) fun v => relatedResults_next ?_
    rw [h.read_eq fun e => hcompare (e ▸ rfl)]
    exact h.update (fun s => Machine.advance (setFlag _ s)) fun _ => by cases q <;> rfl

end Register

end Sys2Proof.Machine

/-! The obligations about the state: reset, the flag and the return register. -/

namespace Sys2Proof.Machine

open Sys2Proof.Statements

/-- Every memory word reads 0 after reset (10_state.md R36). -/
theorem readWord_reset (a : Nat) : readWord State.reset.mem a = 0 := by
  simp only [readWord, readByte_reset]
  decide

/-- A step that changes CI ran the word at pc, and its opcode is that of a compare (10_state.md R26). -/
theorem step_ci {s t : State} (h : step s = .next t) (hne : t.ci ≠ s.ci) :
    56 ≤ (wordAt s.pc s).toNat % 2 ^ 8 ∧ (wordAt s.pc s).toNat % 2 ^ 8 ≤ 63 := by
  rcases step_cases s with ⟨-, hs⟩ | ⟨-, -, hs⟩ | ⟨-, -, -, hs⟩ | ⟨w, -, -, hw, hs⟩ <;> rw [hs] at h
  · exact absurd (next_inj.1 h ▸ rfl) hne
  · exact absurd (next_inj.1 h ▸ rfl) hne
  · exact absurd (next_inj.1 h ▸ rfl) hne
  · obtain ⟨-, hword⟩ := memRead_eq_some.1 hw
    rw [wordAt, hword]
    rcases runWord_cases h with ⟨why, -, rfl⟩ | ⟨i, u, hdec, hexec, rfl⟩
    · exact absurd rfl hne
    · rw [haltCheck_ci] at hne
      rw [← opNumber_of_decode hdec]
      exact exec_ci hexec hne

/-- A well-formed conditional jump goes to two different pcs from two states that differ in CI alone. -/
theorem conditionalJump_reads_ci {i : Instr} (hop : opNumber i = 39) (hmod : 4 ≤ modNumber i)
    (hwf : i.wellFormed = true) :
    ∃ (s t u : State) (c d : Comparison), exec i { s with ci := c } = .next t ∧
      exec i { s with ci := d } = .next u ∧ t.pc ≠ u.pc := by
  obtain ⟨hform, c, k, hck, -, hexec⟩ := exec_of_opNumber_39 hop
  obtain ⟨yes, no, hyes, hno⟩ := exists_flag_taken_and_not (four_le_jumpModifier.1 (hck ▸ hmod))
  obtain ⟨ea, hea⟩ := eaStd_of_wellFormed hform hwf State.reset
  -- The jump stands at its own target, so that falling through leaves it.
  have hea' : ∀ ci, eaStd i.address i.index { State.reset with pc := ea, ci := ci } = some ea :=
    fun ci => (eaStd_congr fun r _ _ _ => by cases r <;> rfl).trans hea
  refine ⟨{ State.reset with pc := ea }, _, _, yes, no,
    (hexec _).trans (jumpWhen_of_holds (hea' yes) hyes),
    (hexec _).trans (jumpWhen_of_not_holds (hea' no) hno), ?_⟩
  rw [jumped_pc, advance_pc]
  change ea ≠ ea + 1
  bv_omega

/-- A taken jump that saves writes the address after it to J and goes to its target (45_jump.md R215). -/
theorem exec_of_taken_saving_jump {i : Instr} {s : State} {ea : Word} (hop : opNumber i = 39)
    (hmod : modNumber i ≠ 1) (htaken : jumpTaken (modNumber i) s.ci = true)
    (hea : eaStd i.address i.index s = some ea) :
    exec i s = .next { s with j := s.pc + 1, pc := ea } := by
  obtain ⟨-, c, k, hck, hkeep, hexec⟩ := exec_of_opNumber_39 hop
  rw [hck, jumpTaken_jumpModifier] at htaken
  cases k with
  | keep => exact absurd (hkeep.1 rfl) hmod
  | save => rw [hexec, jumpWhen_of_holds hea htaken, jumped_save]

/-- An instruction but STJ does not read J (10_state.md R22). -/
theorem exec_differInRegister_j {i : Instr} {s t : State} (hi : opNumber i ≠ 32)
    (h : DifferInRegister .j s t) : RelatedResults (DifferInRegister .j) (exec i s) (exec i t) := by
  have hd := familyOf_describes i
  refine exec_differInRegister (.inr (.inr rfl)) (fun hf => ?_) (fun hf => ?_) h <;> rw [hf] at hd
  · obtain ⟨-, -, -, -, -, hj⟩ := hd
    exact hi (hj.1 rfl)
  · obtain ⟨-, -, -, hj, -⟩ := hd
    exact hj rfl

/-- Settles O1: the reset state field by field. -/
theorem resetLeavesTheStatedValues : Obligations.ResetLeavesTheStatedValues :=
  ⟨rfl, rfl, rfl, rfl, rfl, rfl, rfl, rfl, rfl, rfl, rfl, rfl, rfl, rfl, readWord_reset⟩

/-- Settles O34: J is written by the effect of a saving jump alone, and states that differ in J are run
side by side for what reads it. -/
theorem returnRegisterIsWrittenByTakenSaveAndJumpReadByStj :
    Obligations.ReturnRegisterIsWrittenByTakenSaveAndJumpReadByStj := by
  refine ⟨fun i s t => exec_j, fun i s ea hop hmod htaken hea => ?_, fun i s t u v hi ht hu => ?_,
    fun address index modifier s ea => stores_of_exec_eq rfl⟩
  · exact ⟨_, exec_of_taken_saving_jump hop hmod htaken hea, rfl, rfl⟩
  · obtain ⟨w, rfl⟩ := exec_differInRegister_j hi ⟨v, rfl⟩ t u ht hu
    rfl

/-- Settles O33: CI is written by the effect of a compare alone, states that differ in CI are run side by
side for what does not read it, and a jump at its own target shows that a conditional jump does. -/
theorem flagIsWrittenByComparesAndReadByConditionalJumps :
    Obligations.FlagIsWrittenByComparesAndReadByConditionalJumps := by
  refine ⟨rfl, fun s t => step_ci, fun r i address index modifier s ea hi => ?_,
    fun i s t u c hi ht hu => ?_, fun i => conditionalJump_reads_ci⟩
  · exact compares_of_exec_eq (exec_compareOf hi s)
  · obtain ⟨d, rfl⟩ := exec_differInFlag hi ⟨c, rfl⟩ t u ht hu
    rfl

end Sys2Proof.Machine

/-! The fields of a word as numbers, and the words that are no instruction. -/

namespace Sys2Proof.Machine

open Sys2Proof.Statements

/-! ### The fields of a word (30_encoding.md R71) -/

theorem modifierField_toNat (w : Word) : (modifierField w).toNat = w.toNat / 2 ^ 8 % 2 ^ 8 := by
  simp [modifierField, Nat.shiftRight_eq_div_pow]

theorem indexField_toNat (w : Word) : (indexField w).toNat = w.toNat / 2 ^ 16 % 2 ^ 8 := by
  simp [indexField, Nat.shiftRight_eq_div_pow]

/-- The address field reaches the top of the word, so that nothing above it is cut off. -/
theorem addressField_toNat (w : Word) : (addressField w).toNat = w.toNat / 2 ^ 24 := by
  have hw : w.toNat / 2 ^ 24 < 2 ^ 40 := by omega
  rw [addressField, BitVec.extractLsb'_toNat, Nat.shiftRight_eq_div_pow]
  exact Nat.mod_eq_of_lt hw

/-! ### A fetched word that is no instruction -/

/-- The opcodes of the table: the rows of 30_encoding.md R80, the reserved opcode 40 among them. -/
def OpcodeListed (n : Nat) : Prop :=
  (1 ≤ n ∧ n ≤ 4) ∨ (8 ≤ n ∧ n ≤ 15) ∨ (24 ≤ n ∧ n ≤ 33) ∨ n = 39 ∨ n = 40 ∨ (48 ≤ n ∧ n ≤ 63)

theorem opNumber_listed (i : Instr) : OpcodeListed (opNumber i) := by
  have hd := familyOf_describes i
  unfold OpcodeListed
  cases hf : familyOf i <;> simp only [hf, Family.Describes] at hd <;> omega

/-- The step of a machine whose next fetch reads `w` (40_fetch_dispatch.md R102). -/
theorem step_of_fetches {w : Word} {s : State} (h : Fetches w s) : step s = runWord exec w s := by
  obtain ⟨hrun, hpc, hmem, hword⟩ := h
  exact step_of_fetch hrun hpc (memRead_eq_some.2 ⟨hmem, hword⟩)

/-- A fetched word that stands for no instruction raises DecodeFault (60_exceptions.md R241). -/
theorem step_of_no_instr {w : Word} {s : State} (h : Fetches w s) (hno : ∀ i, decode w ≠ .instr i) :
    step s = .next (raise .decodeFault none s) := by
  rw [step_of_fetches h, runWord]
  cases hdec : decode w with
  | instr i => exact absurd hdec (hno i)
  | reject => rfl

/-- A fetched word whose opcode is none of the table raises DecodeFault, whatever its other fields: an
instruction would keep the opcode of the word. -/
theorem step_of_opcode_not_listed {w : Word} {s : State} (h : Fetches w s)
    (hop : ¬ OpcodeListed (w.toNat % 2 ^ 8)) : step s = .next (raise .decodeFault none s) :=
  step_of_no_instr h fun i hdec => hop (opNumber_of_decode hdec ▸ opNumber_listed i)

/-! ### The obligations -/

/-- Settles O2: each field is a shift of the word, cut to the width of the field. -/
theorem fieldsOfAWord : Obligations.FieldsOfAWord := fun w =>
  ⟨opcodeField_toNat w, modifierField_toNat w, indexField_toNat w, addressField_toNat w,
    (addressField w).isLt, rfl⟩

/-- Settles O8: the ranges of R84, and the opcode 0 of the all-zero word, are outside the table. -/
theorem illegalOpcodesRaiseDecodeFault : Obligations.IllegalOpcodesRaiseDecodeFault := by
  refine ⟨fun w s hfetch hop => step_of_opcode_not_listed hfetch ?_,
    fun s hfetch => step_of_opcode_not_listed hfetch ?_⟩
  · unfold OpcodeListed
    omega
  · simp [OpcodeListed]

end Sys2Proof.Machine

/-! Where an instruction and a step leave the pc, and the steps that halt (40_fetch_dispatch.md R106,
R107). -/

namespace Sys2Proof.Machine

open Sys2Proof.Statements

/-! ### The pc after an instruction -/

/-- The pc of a fetched instruction is below MEM_SIZE, so that adding one does not wrap. -/
theorem pc_add_one_toNat {pc : Pc} (h : pc.toNat < Config.memSize) :
    (pc + 1).toNat = pc.toNat + 1 := by
  change pc.toNat < 100 at h
  bv_omega

/-- Only the opcodes 24 to 33 store (41_load_store.md R140). -/
theorem opNumber_of_storeTarget {i : Instr} {s : State} {ea : Word} (h : storeTarget i s = some ea) :
    24 ≤ opNumber i ∧ opNumber i ≤ 33 := by
  by_contra hop
  exact nomatch (if_neg hop).symm.trans h

/-- The three ways an instruction leaves the pc: it raises and the pc stays, it performs no jump and the pc
advances, or it performs a jump. -/
theorem exec_pc_cases {i : Instr} {s t : State} (h : exec i s = .next t) :
    (t.status = .faulted ∧ t.pc = s.pc) ∨
    (t.status = s.status ∧ (opNumber i = 39 → jumpTaken (modNumber i) s.ci = false) ∧
      t.pc = s.pc + 1) ∨
    (∃ k ea, opNumber i = 39 ∧ (k = .keep ↔ modNumber i = 1) ∧
      jumpTaken (modNumber i) s.ci = true ∧ eaStd i.address i.index s = some ea ∧
      t = jumped k ea s) := by
  cases exec_effect h with
  | raises cause ea => exact .inl ⟨rfl, rfl⟩
  | sets r v hdest hop => exact .inr (.inl ⟨by simp, fun e => absurd e hop, by simp⟩)
  | stores ea v htarget =>
    have hop := opNumber_of_storeTarget htarget
    exact .inr (.inl ⟨rfl, fun e => by omega, rfl⟩)
  | flags c hop => exact .inr (.inl ⟨rfl, fun e => by omega, rfl⟩)
  | jumps k ea hop hkeep htaken hea => exact .inr (.inr ⟨k, ea, hop, hkeep, htaken, hea, rfl⟩)
  | fallsThrough hop htaken => exact .inr (.inl ⟨rfl, fun _ => htaken, rfl⟩)

@[simp] theorem jumped_status (k : Saving) (ea : Word) (s : State) :
    (jumped k ea s).status = s.status := by
  cases k <;> rfl

theorem jumped_j (k : Saving) (ea : Word) (s : State) :
    (jumped k ea s).j = if k = .keep then s.j else s.pc + 1 := by
  cases k <;> rfl

/-- An instruction that raises leaves the pc (60_exceptions.md R249). -/
theorem exec_faulted_pc {i : Instr} {s t : State} (hs : s.status = .running)
    (h : exec i s = .next t) (hfault : t.status = .faulted) : t.pc = s.pc := by
  rcases exec_pc_cases h with ⟨-, hpc⟩ | ⟨hstatus, -⟩ | ⟨k, ea, -, -, -, -, rfl⟩
  · exact hpc
  · simp [hstatus, hs] at hfault
  · simp [hs] at hfault

/-! ### The halt check -/

@[simp] theorem haltCheck_pc (s : State) : (haltCheck s).pc = s.pc := by
  rcases haltCheck_cases s with h | ⟨-, -, h⟩ <;> simp [h]

@[simp] theorem haltCheck_j (s : State) : (haltCheck s).j = s.j := by
  rcases haltCheck_cases s with h | ⟨-, -, h⟩ <;> simp [h]

/-- The halt check raises nothing. -/
theorem status_of_haltCheck_faulted {s : State} (h : (haltCheck s).status = .faulted) :
    s.status = .faulted := by
  rcases haltCheck_cases s with he | ⟨-, -, he⟩ <;> rw [he] at h
  · exact h
  · exact nomatch h

/-- A running machine is halted by the check exactly at pc = 0. -/
theorem haltCheck_halted_iff {s : State} (hs : s.status = .running) :
    (haltCheck s).status = .halted ↔ s.pc = 0 := by
  by_cases hp : s.pc = 0
  · simp [haltCheck_of_pc_eq hs hp, hp]
  · rw [haltCheck_of_pc_ne hp, hs]
    exact iff_of_false nofun hp

/-! ### The step of a fetched instruction -/

/-- A running machine at pc = 0 halts without a fetch (40_fetch_dispatch.md R100). -/
theorem step_of_pc_eq_zero {s : State} (hs : s.status = .running) (hp : s.pc = 0) :
    step s = .next (halt s) := by
  rw [step_of_running hs, runningStep]
  exact if_pos hp

/-- The step of a machine whose next fetch reads an instruction is the meaning, then the halt check
(40_fetch_dispatch.md R100). -/
theorem step_of_decode {w : Word} {i : Instr} {s t : State} (hf : Fetches w s)
    (hd : decode w = .instr i) (h : exec i s = .next t) : step s = .next (haltCheck t) := by
  simp [step_of_fetches hf, runWord, hd, h, afterExecution]

/-- A running machine whose pc is not 0 raises, at fetch or at dispatch, or runs the instruction at pc. -/
theorem step_cases_of_pc_ne {s t : State} (hs : s.status = .running) (hp : s.pc ≠ 0)
    (h : step s = .next t) :
    (∃ cause, t = raise cause none s) ∨
    (∃ i u, Fetches (wordAt s.pc s) s ∧ decode (wordAt s.pc s) = .instr i ∧ exec i s = .next u ∧
      t = haltCheck u) := by
  rcases step_cases s with ⟨hn, -⟩ | ⟨-, hz, -⟩ | ⟨-, -, -, hstep⟩ | ⟨w, -, -, hw, hstep⟩
  · exact absurd hs hn
  · exact absurd hz hp
  · exact .inl ⟨_, next_inj.1 (h.symm.trans hstep)⟩
  · obtain ⟨hlt, rfl⟩ := memRead_eq_some.1 hw
    rcases runWord_cases (hstep.symm.trans h) with ⟨-, -, rfl⟩ | ⟨i, u, hdec, hexec, rfl⟩
    · exact .inl ⟨_, rfl⟩
    · exact .inr ⟨i, u, ⟨hs, hp, hlt, rfl⟩, hdec, hexec, rfl⟩

/-- A jump of the decoder has the fields of its word (30_encoding.md R82). -/
theorem fields_of_decodeJump {address : AddressField} {index : IndexField}
    {modifier : ModifierField} {i : Instr} (h : decodeJump address index modifier = .instr i) :
    i.address = address ∧ i.index = index ∧ modNumber i = modifier.toNat := by
  unfold decodeJump at h
  split at h <;> rename_i hmod <;> cases h <;> exact ⟨rfl, rfl, hmod.symm⟩

/-- A word that decodes to a jump is one of opcode 39, and has the fields of the jump. -/
theorem fields_of_decode_jump {w : Word} {i : Instr} (h : decode w = .instr i)
    (hop : opNumber i = 39) :
    opcodeField w = 39 ∧ addressField w = i.address ∧ indexField w = i.index ∧
      (modifierField w).toNat = modNumber i := by
  have hword : (opcodeField w).toNat = 39 := by
    rw [opcodeField_toNat, ← opNumber_of_decode h, hop]
  have hjump : decode w = decodeJump (addressField w) (indexField w) (modifierField w) := by
    simp only [decode, hword]
  obtain ⟨haddress, hindex, hmod⟩ := fields_of_decodeJump (hjump.symm.trans h)
  exact ⟨BitVec.eq_of_toNat_eq hword, haddress.symm, hindex.symm, hmod.symm⟩

/-! ### The steps that halt -/

/-- The word at pc is a jump whose condition holds and whose effective address is 0, and `j` is what that
jump leaves in J (40_fetch_dispatch.md R107). -/
def JumpsToZero (s : State) (j : Word) : Prop :=
  opcodeField (wordAt s.pc s) = 39 ∧
    eaStd (addressField (wordAt s.pc s)) (indexField (wordAt s.pc s)) s = some 0 ∧
    jumpTaken (modifierField (wordAt s.pc s)).toNat s.ci = true ∧
    j = (if modifierField (wordAt s.pc s) = 1 then s.j else s.pc + 1)

/-- A performed jump that leaves pc = 0 is a jump of the word at pc to 0. -/
theorem jumpsToZero_of_decode {i : Instr} {s : State} {k : Saving}
    (hdec : decode (wordAt s.pc s) = .instr i) (hop : opNumber i = 39)
    (hkeep : k = .keep ↔ modNumber i = 1) (htaken : jumpTaken (modNumber i) s.ci = true)
    (hea : eaStd i.address i.index s = some 0) : JumpsToZero s (jumped k 0 s).j := by
  obtain ⟨hopcode, haddress, hindex, hmod⟩ := fields_of_decode_jump hdec hop
  refine ⟨hopcode, haddress ▸ hindex ▸ hea, hmod ▸ htaken, ?_⟩
  have hone : k = .keep ↔ modifierField (wordAt s.pc s) = 1 := by
    rw [hkeep, ← hmod, ← BitVec.toNat_inj]
    rfl
  simp only [jumped_j, hone]

/-- A step from pc ≠ 0 halts exactly when it leaves pc = 0, and only a jump to 0 leaves it there: a step
that raises keeps its pc, and one that advances goes from below MEM_SIZE to a pc that is not 0. -/
theorem step_halts_iff {s t : State} (hs : s.status = .running) (hp : s.pc ≠ 0)
    (h : step s = .next t) :
    (t.status = .halted ↔ t.pc = 0) ∧ (t.pc = 0 → JumpsToZero s t.j) := by
  rcases step_cases_of_pc_ne hs hp h with ⟨cause, rfl⟩ | ⟨i, u, hfetch, hdec, hexec, rfl⟩
  · exact ⟨iff_of_false nofun hp, fun e => absurd e hp⟩
  · rcases exec_pc_cases hexec with
      ⟨hstatus, hpc⟩ | ⟨hstatus, -, hpc⟩ | ⟨k, ea, hop, hkeep, htaken, hea, rfl⟩
    · have hne : u.status ≠ .running := by simp [hstatus]
      rw [haltCheck_of_not_running hne, hstatus, hpc]
      exact ⟨iff_of_false nofun hp, fun e => absurd e hp⟩
    · obtain ⟨-, -, hlt, -⟩ := hfetch
      have hne : u.pc ≠ 0 := fun e => by
        have hadd := pc_add_one_toNat hlt
        rw [← hpc, e] at hadd
        exact nomatch hadd
      exact ⟨by rw [haltCheck_halted_iff (hstatus.trans hs), haltCheck_pc],
        fun e => absurd ((haltCheck_pc u).symm.trans e) hne⟩
    · rw [haltCheck_halted_iff ((jumped_status k ea s).trans hs), haltCheck_pc, haltCheck_j, jumped_pc]
      refine ⟨Iff.rfl, fun hzero => ?_⟩
      subst hzero
      exact jumpsToZero_of_decode hdec hop hkeep htaken hea

/-- A step that raises leaves the pc, wherever it raises. -/
theorem step_faulted_pc {s t : State} (hs : s.status = .running) (h : step s = .next t)
    (hfault : t.status = .faulted) : t.pc = s.pc := by
  by_cases hp : s.pc = 0
  · obtain rfl := next_inj.1 ((step_of_pc_eq_zero hs hp).symm.trans h)
    rfl
  · rcases step_cases_of_pc_ne hs hp h with ⟨cause, rfl⟩ | ⟨i, u, -, -, hexec, rfl⟩
    · rfl
    · rw [haltCheck_pc]
      exact exec_faulted_pc hs hexec (status_of_haltCheck_faulted hfault)

/-! ### The obligations -/

/-- Settles O40: the check before the fetch, then the halting steps from pc ≠ 0, then the ended machine. -/
theorem haltingIsATakenJumpToZero : Obligations.HaltingIsATakenJumpToZero :=
  ⟨fun _ => step_of_pc_eq_zero, fun _ _ => step_halts_iff, fun _ => step_of_halted⟩

/-- Settles O41: the three ways an instruction leaves the pc, which the halt check keeps. -/
theorem pcAdvancesByOneUnlessAJumpIsPerformed :
    Obligations.PcAdvancesByOneUnlessAJumpIsPerformed := by
  refine ⟨fun i s t hs hlt h => ?_, fun w i s t u hfetch hdec hexec hstep => ?_,
    fun s t => step_faulted_pc⟩
  · rcases exec_pc_cases h with
      ⟨hstatus, hpc⟩ | ⟨hstatus, hnot, hpc⟩ | ⟨k, ea, hop, -, htaken, hea, rfl⟩
    · exact ⟨fun _ => hpc, fun hn => absurd hstatus hn, fun hn => absurd hstatus hn,
        fun hn => absurd hstatus hn⟩
    · have hadd : t.pc.toNat = s.pc.toNat + 1 := hpc ▸ pc_add_one_toNat hlt
      exact ⟨fun hf => by simp [hstatus, hs] at hf, fun _ _ => hadd, fun _ _ _ => hadd,
        fun _ hop htaken => by simp [hnot hop] at htaken⟩
    · exact ⟨fun hf => by simp [hs] at hf, fun _ hne => absurd hop hne,
        fun _ _ hnot => by simp [htaken] at hnot, fun _ _ _ => by rw [hea, jumped_pc]⟩
  · obtain rfl := next_inj.1 ((step_of_decode hfetch hdec hexec).symm.trans hstep)
    exact haltCheck_pc t

end Sys2Proof.Machine

/-! The words whose opcode or modifier the jump family and the increment, decrement and enter family leave
out (45_jump.md R225, R226; 43_inc_dec_enter.md R195). -/

namespace Sys2Proof.Machine

open Sys2Proof.Statements

/-! ### The modifiers the decoder rejects -/

/-- The modifiers of 30_encoding.md R82 are 0, 1 and 4 to 9. -/
theorem decodeJump_of_unlisted (address : AddressField) (index : IndexField)
    {modifier : ModifierField}
    (h : modifier.toNat = 2 ∨ modifier.toNat = 3 ∨ 10 ≤ modifier.toNat) :
    decodeJump address index modifier = .reject .badJumpModifier := by
  unfold decodeJump
  split
  case h_9 => rfl
  all_goals omega

/-- The modifiers of 30_encoding.md R81 are 0, 1 and 2. -/
theorem decodeIncDecEnter_of_three_le (increment decrement enter : Instr) {modifier : ModifierField}
    (h : 3 ≤ modifier.toNat) :
    decodeIncDecEnter increment decrement enter modifier = .reject .badIncDecEnterModifier := by
  rcases decodeIncDecEnter_cases increment decrement enter modifier with
    ⟨hm, -⟩ | ⟨hm, -⟩ | ⟨hm, -⟩ | ⟨-, hd⟩
  case inr.inr.inr => exact hd
  all_goals omega

/-! ### The map an opcode is given to -/

/-- Opcode 39 is decoded by the modifier map of the jumps (30_encoding.md R82). -/
theorem decode_of_opcode_39 {w : Word} (h : w.toNat % 2 ^ 8 = 39) :
    decode w = decodeJump (addressField w) (indexField w) (modifierField w) := by
  rw [← opcodeField_toNat] at h
  simp only [decode, h]

/-- Each of the opcodes 48 to 55 is decoded by the modifier map of one register (30_encoding.md R81). -/
theorem decode_of_opcode_48_to_55 {w : Word} (hlow : 48 ≤ w.toNat % 2 ^ 8)
    (hhigh : w.toNat % 2 ^ 8 ≤ 55) :
    ∃ increment decrement enter,
      decode w = decodeIncDecEnter increment decrement enter (modifierField w) := by
  rw [← opcodeField_toNat] at hlow hhigh
  unfold decode
  generalize (opcodeField w).toNat = n at *
  interval_cases n <;> exact ⟨_, _, _, rfl⟩

/-! ### The step of a rejected word -/

/-- A fetched word the decoder rejects raises DecodeFault, whatever the reason of the rejection. -/
theorem step_of_reject {w : Word} {s : State} {why : Reject} (h : Fetches w s)
    (hd : decode w = .reject why) : step s = .next (raise .decodeFault none s) :=
  step_of_no_instr h fun _ hi => nomatch hd.symm.trans hi

/-! ### The obligations -/

/-- Settles O9: of the opcodes 39 to 47 the table lists 39 and 40 alone. -/
theorem unlistedJumpRangeOpcodesRaiseDecodeFault :
    Obligations.UnlistedJumpRangeOpcodesRaiseDecodeFault := by
  refine ⟨rfl, fun w s hfetch hlow hhigh => step_of_opcode_not_listed hfetch ?_⟩
  unfold OpcodeListed
  omega

/-- Settles O10: the opcode chooses the modifier map, and the map rejects the modifier before the index
field or CI is read. -/
theorem unlistedModifiersRaiseDecodeFault : Obligations.UnlistedModifiersRaiseDecodeFault := by
  intro w s hfetch h
  rw [← modifierField_toNat] at h
  rcases h with ⟨hop, hmod⟩ | ⟨hlow, hhigh, hmod⟩
  · exact step_of_reject hfetch ((decode_of_opcode_39 hop).trans (decodeJump_of_unlisted _ _ hmod))
  · obtain ⟨increment, decrement, enter, hd⟩ := decode_of_opcode_48_to_55 hlow hhigh
    exact step_of_reject hfetch (hd.trans (decodeIncDecEnter_of_three_le _ _ _ hmod))

end Sys2Proof.Machine

/-! Words and instructions: a word is its four fields, the encoder and the decoder undo each other
(30_encoding.md R73, R80), and the words that decode are the listed pairs of opcode and modifier (R87). -/

namespace Sys2Proof.Machine

open Sys2Proof.Statements

/-! ### A word as its fields -/

/-- The number of an assembled word: each field of it is one digit of the number (30_encoding.md R73). -/
theorem assemble_toNat (address : AddressField) (index : IndexField) (modifier : ModifierField)
    (opcode : OpcodeField) :
    (assemble address index modifier opcode).toNat =
      address.toNat * 2 ^ 24 + index.toNat * 2 ^ 16 + modifier.toNat * 2 ^ 8 + opcode.toNat := by
  have hop := opcodeField_toNat (assemble address index modifier opcode)
  have hmod := modifierField_toNat (assemble address index modifier opcode)
  have hindex := indexField_toNat (assemble address index modifier opcode)
  have haddress := addressField_toNat (assemble address index modifier opcode)
  rw [opcodeField_assemble] at hop
  rw [modifierField_assemble] at hmod
  rw [indexField_assemble] at hindex
  rw [addressField_assemble] at haddress
  omega

theorem assemble_fields (w : Word) :
    assemble (addressField w) (indexField w) (modifierField w) (opcodeField w) = w := by
  apply BitVec.eq_of_toNat_eq
  rw [assemble_toNat, addressField_toNat, indexField_toNat, modifierField_toNat, opcodeField_toNat]
  omega

/-! ### Encoding and decoding -/

/-- The decoder reads back what the encoder wrote: the opcode and modifier select the instruction, and the
address and index fields are its own. -/
theorem decode_encode (i : Instr) : decode (encode i) = .instr i := by
  obtain ⟨hop, hmod, hindex, haddress⟩ := Laws.EncodedFields.of_assemble i
  simp only [decode, hop, hmod, hindex, haddress]
  cases i <;> rfl

theorem decode_of_eq_encode {w : Word} {i : Instr} (h : w = encode i) : decode w = .instr i :=
  h ▸ decode_encode i

/-- The instruction has the address, index and modifier of `w`, as decoding keeps them. -/
def HasFieldsOf (w : Word) (i : Instr) : Prop :=
  i.address = addressField w ∧ i.index = indexField w ∧ modifierOf i = modifierField w

theorem hasFieldsOf_of_decodeJump {w : Word} {i : Instr}
    (h : decodeJump (addressField w) (indexField w) (modifierField w) = .instr i) :
    HasFieldsOf w i := by
  obtain ⟨haddress, hindex, hmod⟩ := fields_of_decodeJump h
  exact ⟨haddress, hindex, BitVec.eq_of_toNat_eq hmod⟩

theorem hasFieldsOf_of_decodeIncDecEnter {w : Word} {increment decrement enter i : Instr}
    (h : decodeIncDecEnter increment decrement enter (modifierField w) = .instr i)
    (hinc : modifierField w = 0 → HasFieldsOf w increment)
    (hdec : modifierField w = 1 → HasFieldsOf w decrement)
    (hent : modifierField w = 2 → HasFieldsOf w enter) : HasFieldsOf w i := by
  rcases decodeIncDecEnter_cases increment decrement enter (modifierField w) with
    ⟨hm, hd⟩ | ⟨hm, hd⟩ | ⟨hm, hd⟩ | ⟨-, hd⟩ <;> rw [hd] at h
  · exact Decoded.instr.inj h ▸ hinc (BitVec.eq_of_toNat_eq hm)
  · exact Decoded.instr.inj h ▸ hdec (BitVec.eq_of_toNat_eq hm)
  · exact Decoded.instr.inj h ▸ hent (BitVec.eq_of_toNat_eq hm)
  · exact nomatch h

/-- The decoder drops no field of the word: an arm is the modifier map of the jumps, the modifier map of one
register, or one instruction built of the fields. -/
theorem hasFieldsOf_of_decode {w : Word} {i : Instr} (h : decode w = .instr i) :
    HasFieldsOf w i := by
  unfold decode at h
  split at h
  all_goals first
    | exact hasFieldsOf_of_decodeJump h
    | exact hasFieldsOf_of_decodeIncDecEnter h (fun hm => ⟨rfl, rfl, hm.symm⟩)
        (fun hm => ⟨rfl, rfl, hm.symm⟩) (fun hm => ⟨rfl, rfl, hm.symm⟩)
    | (cases h <;> exact ⟨rfl, rfl, rfl⟩)

/-- An instruction stands for one word only. -/
theorem encode_of_decode {w : Word} {i : Instr} (h : decode w = .instr i) : encode i = w := by
  obtain ⟨haddress, hindex, hmod⟩ := hasFieldsOf_of_decode h
  have hop : opcodeOf i = opcodeField w :=
    BitVec.eq_of_toNat_eq ((opNumber_of_decode h).trans (opcodeField_toNat w).symm)
  rw [encode, haddress, hindex, hmod, hop, assemble_fields]

/-- The modifier of the instruction is the one of the word. -/
theorem modNumber_of_decode {w : Word} {i : Instr} (h : decode w = .instr i) :
    modNumber i = w.toNat / 2 ^ 8 % 2 ^ 8 := by
  obtain ⟨-, -, hmod⟩ := hasFieldsOf_of_decode h
  rw [modNumber, hmod, modifierField_toNat]

/-! ### The words that decode -/

/-- The pairs of opcode and modifier of 30_encoding.md R87. -/
def PairListed (opcode modifier : Nat) : Prop :=
  accessesMemory opcode ∨ opcode = 40 ∨
    (opcode = 39 ∧ modifier ∈ [0, 1, 4, 5, 6, 7, 8, 9]) ∨
    (48 ≤ opcode ∧ opcode ≤ 55 ∧ modifier ≤ 2)

theorem pairListed_of_instr (i : Instr) : PairListed (opNumber i) (modNumber i) := by
  cases i <;> simp [PairListed, accessesMemory, opNumber, opcodeOf, modNumber, modifierOf]

theorem accessesMemory_iff (op : Nat) :
    accessesMemory op = true ↔
      (1 ≤ op ∧ op ≤ 4) ∨ (8 ≤ op ∧ op ≤ 15) ∨ (24 ≤ op ∧ op ≤ 33) ∨ (56 ≤ op ∧ op ≤ 63) := by
  simp only [accessesMemory, Bool.or_eq_true, decide_eq_true_eq, or_assoc]

/-- Where the opcode alone selects the instruction, every modifier decodes (30_encoding.md R83). -/
theorem decodes_of_opcode {w : Word}
    (h : accessesMemory (w.toNat % 2 ^ 8) = true ∨ w.toNat % 2 ^ 8 = 40) :
    ∃ i, decode w = .instr i := by
  rw [accessesMemory_iff, ← opcodeField_toNat] at h
  unfold decode
  generalize (opcodeField w).toNat = n at *
  rcases h with (⟨hlow, hhigh⟩ | ⟨hlow, hhigh⟩ | ⟨hlow, hhigh⟩ | ⟨hlow, hhigh⟩) | rfl
  case inr => exact ⟨_, rfl⟩
  all_goals interval_cases n <;> exact ⟨_, rfl⟩

theorem decodes_of_jump {w : Word} (hop : w.toNat % 2 ^ 8 = 39)
    (hmod : w.toNat / 2 ^ 8 % 2 ^ 8 ∈ [0, 1, 4, 5, 6, 7, 8, 9]) : ∃ i, decode w = .instr i := by
  rw [← modifierField_toNat] at hmod
  rw [decode_of_opcode_39 hop, decodeJump]
  simp only [List.mem_cons, List.not_mem_nil, or_false] at hmod
  rcases hmod with h | h | h | h | h | h | h | h <;> rw [h] <;> exact ⟨_, rfl⟩

theorem decodes_of_incDecEnter {w : Word} (hlow : 48 ≤ w.toNat % 2 ^ 8)
    (hhigh : w.toNat % 2 ^ 8 ≤ 55) (hmod : w.toNat / 2 ^ 8 % 2 ^ 8 ≤ 2) :
    ∃ i, decode w = .instr i := by
  rw [← modifierField_toNat] at hmod
  obtain ⟨increment, decrement, enter, hd⟩ := decode_of_opcode_48_to_55 hlow hhigh
  rw [hd]
  rcases decodeIncDecEnter_cases increment decrement enter (modifierField w) with
    ⟨-, h⟩ | ⟨-, h⟩ | ⟨-, h⟩ | ⟨h, -⟩
  · exact ⟨_, h⟩
  · exact ⟨_, h⟩
  · exact ⟨_, h⟩
  · omega

/-- A word decodes exactly when its pair is listed. -/
theorem decodes_iff_pairListed (w : Word) :
    (∃ i, decode w = .instr i) ↔ PairListed (w.toNat % 2 ^ 8) (w.toNat / 2 ^ 8 % 2 ^ 8) := by
  constructor
  · rintro ⟨i, h⟩
    rw [← opNumber_of_decode h, ← modNumber_of_decode h]
    exact pairListed_of_instr i
  · rintro (h | h | ⟨hop, hmod⟩ | ⟨hlow, hhigh, hmod⟩)
    · exact decodes_of_opcode (.inl h)
    · exact decodes_of_opcode (.inr h)
    · exact decodes_of_jump hop hmod
    · exact decodes_of_incDecEnter hlow hhigh hmod

/-! ### The obligations -/

/-- Settles O4: the fields of the encoding select the instruction and are its own. -/
theorem decodeOfEncodeIsTheInstruction : Obligations.DecodeOfEncodeIsTheInstruction :=
  decode_encode

/-- Settles O5: decoding keeps all four fields, and they rebuild the word. -/
theorem encodeOfDecodeIsTheWord : Obligations.EncodeOfDecodeIsTheWord :=
  fun _ _ => encode_of_decode

/-- Settles O3: both words have the number whose digits are the fields. -/
theorem fieldsRebuildTheWord : Obligations.FieldsRebuildTheWord :=
  ⟨assemble_fields, assemble_toNat⟩

/-- Settles O6: an instruction's own pair is listed, and each listed pair has its arm in the decoder. -/
theorem legalWordsAreTheListedPairs : Obligations.LegalWordsAreTheListedPairs :=
  decodes_iff_pairListed

/-- Settles O7: each word is the encoding of its instruction. -/
theorem wordsOfTheSpecDecode : Obligations.WordsOfTheSpecDecode := by
  unfold Obligations.WordsOfTheSpecDecode
  and_intros <;> exact decode_of_eq_encode (by decide)

end Sys2Proof.Machine

/-! The instructions that complete: what each family does where its checks pass (40_fetch_dispatch.md R103
to R105; the results of 41_load_store.md to 45_jump.md). -/

namespace Sys2Proof.Machine

open Sys2Proof.Statements

/-! ### Effective addresses as numbers -/

@[simp] theorem zext64_toNat (address : AddressField) : (zext64 address).toNat = address.toNat := by
  have := address.isLt
  rw [zext64, BitVec.toNat_setWidth]
  omega

theorem zext64_add_toNat (address : AddressField) (v : Word) :
    (zext64 address + v).toNat = (address.toNat + v.toNat) % 2 ^ 64 := by
  rw [BitVec.toNat_add, zext64_toNat]

/-- Index 0 adds nothing in the standard form (40_fetch_dispatch.md R104). -/
theorem eaStd_of_index_eq_zero {address : AddressField} {index : IndexField} {s : State}
    (h : index.toNat = 0) : eaStd address index s = some (zext64 address) :=
  if_pos (BitVec.eq_of_toNat_eq h)

/-- The standard form adds the register that the index field names. -/
theorem eaStd_of_register {address : AddressField} {index : IndexField} {s : State} {r : Reg}
    (h : indexRegister index.toNat = some r) :
    eaStd address index s = some (zext64 address + s.read r) := by
  have hne : index ≠ 0 := by
    rintro rfl
    exact nomatch h
  simp only [eaStd, if_neg hne, h]

/-- The arithmetic form adds the register after the one that the index field names. -/
theorem eaArith_of_register {address : AddressField} {index : IndexField} {s : State} {r : Reg}
    (h : indexRegister (index.toNat + 1) = some r) :
    eaArith address index s = some (zext64 address + s.read r) := by
  simp [eaArith, h]

theorem exists_eaStd_of_register {address : AddressField} {index : IndexField} {s : State} {r : Reg}
    (h : indexRegister index.toNat = some r) :
    ∃ ea, eaStd address index s = some ea ∧
      ea.toNat = (address.toNat + (s.read r).toNat) % 2 ^ 64 :=
  ⟨_, eaStd_of_register h, zext64_add_toNat _ _⟩

theorem exists_eaArith_of_register {address : AddressField} {index : IndexField} {s : State} {r : Reg}
    (h : indexRegister (index.toNat + 1) = some r) :
    ∃ ea, eaArith address index s = some ea ∧
      ea.toNat = (address.toNat + (s.read r).toNat) % 2 ^ 64 :=
  ⟨_, eaArith_of_register h, zext64_add_toNat _ _⟩

/-! ### Completed operations of the families -/

section Completed

variable {address : AddressField} {index : IndexField} {s : State} {ea : Word}

theorem loadInto_of_lt (r : Reg) (hea : eaStd address index s = some ea)
    (hlt : ea.toNat < Config.memSize) :
    loadInto r address index s = .next (advance (s.write r (wordAt ea s))) := by
  rw [loadInto, hea, withOperand_of_lt _ hlt, wordAt]

theorem arithmetic_of_some {op : Word → Word → Option Word} {v : Word}
    (hea : eaArith address index s = some ea) (hlt : ea.toNat < Config.memSize)
    (hop : op s.a (wordAt ea s) = some v) :
    arithmetic op address index s = .next (advance (s.write .a v)) := by
  rw [wordAt] at hop
  simp only [arithmetic, hea, withOperand_of_lt _ hlt, hop]

theorem arithmetic_of_none {op : Word → Word → Option Word}
    (hea : eaArith address index s = some ea) (hlt : ea.toNat < Config.memSize)
    (hop : op s.a (wordAt ea s) = none) :
    arithmetic op address index s = .next (raise .arithmeticFault none s) := by
  rw [wordAt] at hop
  simp only [arithmetic, hea, withOperand_of_lt _ hlt, hop]

theorem updateByAddress_of_some (op : Word → Word → Word) (r : Reg)
    (hea : eaStd address index s = some ea) :
    updateByAddress op r address index s = .next (advance (s.write r (op (s.read r) ea))) := by
  rw [updateByAddress, hea, withAddress_some]

/-- A jump that saves is `savedJump` of any proposition that says when its condition holds. -/
theorem jumpWhen_save {c : Condition} {taken : Prop} [Decidable taken]
    (hea : eaStd address index s = some ea) (hc : conditionHolds c s.ci = true ↔ taken) :
    jumpWhen c .save address index s = .next (savedJump taken ea s) := by
  by_cases h : taken
  · rw [jumpWhen_of_holds hea (hc.2 h), jumped_save, savedJump, if_pos h]
  · rw [jumpWhen_of_not_holds hea (Bool.eq_false_iff.2 fun e => h (hc.1 e)), savedJump, if_neg h]
    rfl

/-- Writing one register and advancing is what `Sets` says. -/
theorem sets_of_exec_eq {i : Instr} {r : Reg} {v : Word} {n : Nat}
    (h : exec i s = .next (advance (s.write r v))) (hn : v.toNat = n) : Sets i s r n :=
  ⟨_, h, by simp [hn], fun q hq => by simp [State.read_write_other s v hq], by simp, by simp,
    by simp, by simp, by simp⟩

theorem sets_of_loadInto {i : Instr} {r : Reg} (hi : exec i s = loadInto r address index s)
    (hea : eaStd address index s = some ea) (hlt : ea.toNat < Config.memSize) :
    Sets i s r (wordAt ea s).toNat :=
  sets_of_exec_eq (hi.trans (loadInto_of_lt r hea hlt)) rfl

theorem sets_of_arithmetic {i : Instr} {op : Word → Word → Option Word} {v : Word} {n : Nat}
    (hi : exec i s = arithmetic op address index s) (hea : eaArith address index s = some ea)
    (hlt : ea.toNat < Config.memSize) (hop : op s.a (wordAt ea s) = some v) (hn : v.toNat = n) :
    Sets i s .a n :=
  sets_of_exec_eq (hi.trans (arithmetic_of_some hea hlt hop)) hn

theorem sets_of_updateByAddress {i : Instr} {op : Word → Word → Word} {r : Reg} {n : Nat}
    (hi : exec i s = updateByAddress op r address index s) (hea : eaStd address index s = some ea)
    (hn : (op (s.read r) ea).toNat = n) : Sets i s r n :=
  sets_of_exec_eq (hi.trans (updateByAddress_of_some op r hea)) hn

end Completed

/-! ### The operations as numbers -/

theorem incremented_toNat (old ea : Word) :
    (incremented old ea).toNat = (old.toNat + ea.toNat) % 2 ^ 64 :=
  BitVec.toNat_add old ea

theorem sub_toNat (a v : Word) : (a - v).toNat = (a.toNat + (2 ^ 64 - v.toNat)) % 2 ^ 64 := by
  rw [BitVec.toNat_sub, Nat.add_comm]

theorem decremented_toNat (old ea : Word) :
    (decremented old ea).toNat = (old.toNat + (2 ^ 64 - ea.toNat)) % 2 ^ 64 :=
  sub_toNat old ea

/-- The quotient is the floor: the bounds of 42_arithmetic.md R165. -/
theorem div_toNat_bounds (a : Word) {v : Word} (h : v ≠ 0) :
    (a / v).toNat * v.toNat ≤ a.toNat ∧ a.toNat < ((a / v).toNat + 1) * v.toNat := by
  have hpos : 0 < v.toNat := Nat.pos_of_ne_zero fun e => h (BitVec.eq_of_toNat_eq e)
  rw [BitVec.toNat_udiv]
  exact ⟨Nat.div_mul_le_self _ _, (Nat.div_lt_iff_lt_mul hpos).1 (Nat.lt_succ_self _)⟩

/-! ### The obligations: effective addresses and faults -/

/-- Settles O13: index 0 adds nothing, 1 to 6 name their register, 7 and above name none. -/
theorem standardEffectiveAddress : Obligations.StandardEffectiveAddress := fun _ _ _ =>
  ⟨fun h => ⟨_, eaStd_of_index_eq_zero h, zext64_toNat _⟩,
    fun h => exists_eaStd_of_register (r := .i1) (by rw [h]; rfl),
    fun h => exists_eaStd_of_register (r := .i2) (by rw [h]; rfl),
    fun h => exists_eaStd_of_register (r := .i3) (by rw [h]; rfl),
    fun h => exists_eaStd_of_register (r := .i4) (by rw [h]; rfl),
    fun h => exists_eaStd_of_register (r := .i5) (by rw [h]; rfl),
    fun h => exists_eaStd_of_register (r := .i6) (by rw [h]; rfl),
    eaStd_eq_none.2⟩

/-- Settles O14: index k in 0 to 5 names I[k+1], 6 and above name none. -/
theorem arithmeticEffectiveAddress : Obligations.ArithmeticEffectiveAddress := fun _ _ _ =>
  ⟨fun h => exists_eaArith_of_register (r := .i1) (by rw [h]; rfl),
    fun h => exists_eaArith_of_register (r := .i2) (by rw [h]; rfl),
    fun h => exists_eaArith_of_register (r := .i3) (by rw [h]; rfl),
    fun h => exists_eaArith_of_register (r := .i4) (by rw [h]; rfl),
    fun h => exists_eaArith_of_register (r := .i5) (by rw [h]; rfl),
    fun h => exists_eaArith_of_register (r := .i6) (by rw [h]; rfl),
    eaArith_eq_none.2⟩

/-- Settles O28: the quotient by the zero word is the one operation without a result. -/
theorem divisionByZeroRaisesArithmeticFault : Obligations.DivisionByZeroRaisesArithmeticFault :=
  fun _ _ _ _ _ hea hlt hzero => arithmetic_of_none hea hlt (divide_eq_none.2 hzero)

/-! ### The obligations: results -/

/-- Settles O16: each load is `loadInto` of its register. -/
theorem loadsCopyTheWordIntoTheirRegister : Obligations.LoadsCopyTheWordIntoTheirRegister := by
  intro address index modifier s ea hea hlt
  and_intros <;> exact sets_of_loadInto rfl hea hlt

/-- Settles O17: each store is `storeValue` of its register, STZ of 0. -/
theorem storesReplaceTheWord : Obligations.StoresReplaceTheWord := by
  intro address index modifier s ea hea hlt
  and_intros <;> exact stores_of_exec_eq rfl hea hlt

/-- Settles O18: the sum, difference and product of words are those of the numbers modulo 2^64. -/
theorem addSubMulWriteAModulo : Obligations.AddSubMulWriteAModulo :=
  fun _ _ _ _ _ hea hlt =>
    ⟨sets_of_arithmetic (op := fun a v => some (a + v)) rfl hea hlt rfl (BitVec.toNat_add _ _),
      sets_of_arithmetic (op := fun a v => some (a - v)) rfl hea hlt rfl (sub_toNat _ _),
      sets_of_arithmetic (op := fun a v => some (a * v)) rfl hea hlt rfl (BitVec.toNat_mul _ _)⟩

/-- Settles O19: a nonzero divisor has the floor quotient. -/
theorem divWritesTheFloorQuotient : Obligations.DivWritesTheFloorQuotient :=
  fun _ _ _ s _ hea hlt hne =>
    ⟨_, sets_of_arithmetic rfl hea hlt (divide_of_ne hne) rfl, div_toNat_bounds s.a hne⟩

/-- Settles O20: each increment is `updateByAddress` of its register. -/
theorem incrementsAddTheAddress : Obligations.IncrementsAddTheAddress := by
  intro address index s ea hea
  and_intros <;> exact sets_of_updateByAddress rfl hea (incremented_toNat _ _)

/-- Settles O21: each decrement is `updateByAddress` of its register. -/
theorem decrementsSubtractTheAddress : Obligations.DecrementsSubtractTheAddress := by
  intro address index s ea hea
  and_intros <;> exact sets_of_updateByAddress rfl hea (decremented_toNat _ _)

/-- Settles O22: each enter is `updateByAddress` of its register. -/
theorem entersWriteTheAddress : Obligations.EntersWriteTheAddress := by
  intro address index s ea hea
  and_intros <;> exact sets_of_updateByAddress (op := entered) rfl hea rfl

/-- Settles O23: each compare is `compareWith` of its register. -/
theorem comparesSetTheFlag : Obligations.ComparesSetTheFlag := by
  intro address index modifier s ea hea hlt
  and_intros
  · exact compares_of_exec_eq (r := .a) rfl hea hlt
  · exact compares_of_exec_eq (r := .i1) rfl hea hlt
  · exact compares_of_exec_eq (r := .i2) rfl hea hlt
  · exact compares_of_exec_eq (r := .i3) rfl hea hlt
  · exact compares_of_exec_eq (r := .i4) rfl hea hlt
  · exact compares_of_exec_eq (r := .i5) rfl hea hlt
  · exact compares_of_exec_eq (r := .i6) rfl hea hlt
  · exact compares_of_exec_eq (r := .x) rfl hea hlt

/-- Settles O24: the condition of JMP and JSJ holds of every flag. -/
theorem unconditionalJumpsGoToTheAddress : Obligations.UnconditionalJumpsGoToTheAddress :=
  fun _ _ _ _ hea => ⟨jumpWhen_of_holds hea rfl, jumpWhen_of_holds hea rfl⟩

/-- Settles O25: each conditional jump saves, on its condition. -/
theorem conditionalJumpsFollowTheFlag : Obligations.ConditionalJumpsFollowTheFlag := by
  intro address index s ea hea
  and_intros <;> exact jumpWhen_save hea (by simp [conditionHolds])

/-- Settles O15: the flag of a compare is the order of the numbers, so each condition on it is one too. -/
theorem flagOutcomesAndTheJumpsTheyTake : Obligations.FlagOutcomesAndTheJumpsTheyTake := by
  refine ⟨fun r v => ?_, fun r v address index s ea hci hea => ?_⟩
  · obtain ⟨hless, hequal, hgreater⟩ := cmp3_iff r v
    exact ⟨hless.2, hequal.2, hgreater.2⟩
  · obtain ⟨hless, hequal, hgreater⟩ := cmp3_iff r v
    rw [← hci] at hless hequal hgreater
    obtain ⟨hjmp, hjsj⟩ := unconditionalJumpsGoToTheAddress address index s ea hea
    refine ⟨?_, ?_, ?_, ?_, ?_, ?_, hjmp, hjsj⟩ <;>
      exact jumpWhen_save hea (by simp [conditionHolds, hless, hequal, hgreater])

/-- Settles O36: the handlers of the four families take no modifier. -/
theorem modifierIsIgnoredWhereItSelectsNothing :
    Obligations.ModifierIsIgnoredWhereItSelectsNothing := by
  intro address index m n s
  and_intros <;> rfl

end Sys2Proof.Machine

/-! What an instruction may change, and where it faults: the frames over all instructions (10_state.md R20 to
R31) and the causes of a fault (60_exceptions.md R241 to R245). -/

namespace Sys2Proof.Machine

open Sys2Proof.Statements

/-! ### Registers and memory -/

@[simp] theorem read_setMem (s : State) (m : Memory) (r : Reg) :
    ({ s with mem := m } : State).read r = s.read r := by
  cases r <;> rfl

/-- A jump writes no register but J, and J only where it saves. -/
theorem read_jumped {k : Saving} {r : Reg} (h : k = .save → r ≠ .j) (ea : Word) (s : State) :
    (jumped k ea s).read r = s.read r := by
  cases k with
  | keep => exact read_jumpTo ea s r
  | save => exact (read_jumpTo ea _ r).trans (read_saveReturn s (h rfl))

@[simp] theorem jumped_fault (k : Saving) (ea : Word) (s : State) :
    (jumped k ea s).fault = s.fault := by
  cases k <;> rfl

@[simp] theorem jumped_mem (k : Saving) (ea : Word) (s : State) :
    (jumped k ea s).mem = s.mem := by
  cases k <;> rfl

/-- The destination of a jump that saves is J (10_state.md R22). -/
theorem destination_of_saving {i : Instr} (hop : opNumber i = 39) (hmod : modNumber i ≠ 1) :
    destination i = some .j := by
  cases i <;> simp [opNumber, opcodeOf, modNumber, modifierOf, destination] at hop hmod ⊢

/-- An instruction writes no register but its destination (10_state.md R20 to R22). -/
theorem exec_read_of_ne_destination {i : Instr} {s t : State} {r : Reg} (h : exec i s = .next t)
    (hr : destination i ≠ some r) : t.read r = s.read r := by
  cases exec_effect h with
  | raises | stores | flags | fallsThrough => simp
  | sets q v hdest =>
    rw [read_advance]
    exact s.read_write_other v fun e => hr (e ▸ hdest)
  | jumps k ea hop hkeep =>
    refine read_jumped (fun hk e => ?_) ea s
    have hmod : modNumber i ≠ 1 := fun e => nomatch hk.symm.trans (hkeep.2 e)
    exact hr (e ▸ destination_of_saving hop hmod)

/-- An instruction changes no byte but those of the word it stores (20_memory.md R54). -/
theorem exec_readByte_of_ne_target {i : Instr} {s t : State} {n : Nat} (h : exec i s = .next t)
    (hn : ∀ ea, storeTarget i s = some ea → n / 8 ≠ ea.toNat) :
    readByte t.mem n = readByte s.mem n := by
  cases exec_effect h with
  | raises | sets | flags | jumps | fallsThrough => simp
  | stores ea v htarget => exact (readByte_writeWord _ _ _ _).trans (if_neg (hn ea htarget))

/-- An instruction keeps the canonical form of memory. -/
theorem exec_mem_wf {i : Instr} {s t : State} (h : exec i s = .next t) (hs : s.mem.wf = true) :
    t.mem.wf = true := by
  cases exec_effect h with
  | raises | sets | flags | jumps | fallsThrough => simpa using hs
  | stores ea v htarget hea => exact wf_writeWord v hea hs

/-! ### A and X -/

theorem opNumber_of_destination_a {i : Instr} (h : destination i = some .a) :
    opNumber i ∈ [1, 2, 3, 4, 8, 48] := by
  cases i <;> simp [destination, opNumber, opcodeOf] at h ⊢

theorem opNumber_of_destination_x {i : Instr} (h : destination i = some .x) :
    opNumber i ∈ [15, 55] := by
  cases i <;> simp [destination, opNumber, opcodeOf] at h ⊢

/-- An instruction but STX and CMPX does not read X, other than to write it back (10_state.md R20). -/
theorem exec_differInRegister_x {i : Instr} {s t : State} (hstore : opNumber i ≠ 31)
    (hcompare : opNumber i ≠ 63) (h : DifferInRegister .x s t) :
    RelatedResults (DifferInRegister .x) (exec i s) (exec i t) := by
  have hd := familyOf_describes i
  refine exec_differInRegister (.inr (.inl rfl)) (fun hf => ?_) (fun hf => ?_) h <;> rw [hf] at hd
  · obtain ⟨-, -, -, -, hx, -⟩ := hd
    exact hstore (hx.1 rfl)
  · obtain ⟨-, -, -, -, -, hx⟩ := hd
    exact hcompare (hx.1 rfl)

/-- An instruction but STA and CMPA does not read A, other than to write it back (10_state.md R20). -/
theorem exec_differInRegister_a {i : Instr} {s t : State} (hstore : opNumber i ≠ 24)
    (hcompare : opNumber i ≠ 56) (h : DifferInRegister .a s t) :
    RelatedResults (DifferInRegister .a) (exec i s) (exec i t) := by
  have hd := familyOf_describes i
  refine exec_differInRegister (.inl rfl) (fun hf => ?_) (fun hf => ?_) h <;> rw [hf] at hd
  · obtain ⟨-, -, -, ha, -⟩ := hd
    exact hstore (ha.1 rfl)
  · obtain ⟨-, -, -, -, ha, -⟩ := hd
    exact hcompare (ha.1 rfl)

/-! ### The check of the index field -/

/-- How the instructions of a family read their index field (30_encoding.md R75). -/
def Family.form : Family → Indexing
  | .arithmetic _ => .arithmetic
  | .reserved => .unexamined
  | .load _ | .store _ | .jump _ _ | .update _ _ | .compare _ => .standard

theorem indexing_eq_form (i : Instr) : i.indexing = (familyOf i).form := by
  cases i <;> rfl

section Form

variable {i : Instr} (s : State)

theorem wellFormed_eq_false_iff_eaStd (hform : i.indexing = .standard) :
    i.wellFormed = false ↔ eaStd i.address i.index s = none := by
  rw [Instr.wellFormed, hform, eaStd_eq_none_iff_range]

theorem wellFormed_eq_false_iff_eaArith (hform : i.indexing = .arithmetic) :
    i.wellFormed = false ↔ eaArith i.address i.index s = none := by
  rw [Instr.wellFormed, hform, eaArith_eq_none_iff_range]

theorem effectiveAddress_of_standard (hform : i.indexing = .standard) :
    effectiveAddress i s = eaStd i.address i.index s := by
  rw [effectiveAddress, hform]

theorem effectiveAddress_of_arithmetic (hform : i.indexing = .arithmetic) :
    effectiveAddress i s = eaArith i.address i.index s := by
  rw [effectiveAddress, hform]

/-- Every family checks the index field before anything else (60_exceptions.md R247); the reserved opcode
examines none, so it is never ill formed. -/
theorem exec_of_illFormed (hwf : i.wellFormed = false) :
    exec i s = .next (raise .indexFault none s) := by
  have hform := indexing_eq_form i
  rw [exec_eq_run]
  cases hf : familyOf i with rw [hf] at hform
  | arithmetic op =>
    rw [wellFormed_eq_false_iff_eaArith s hform] at hwf
    rw [Family.run, Machine.arithmetic, hwf, withOperand, withAddress_none]
  | reserved =>
    rw [Instr.wellFormed, hform] at hwf
    exact nomatch hwf
  | load | store | jump | update | compare =>
    rw [wellFormed_eq_false_iff_eaStd s hform] at hwf
    simp only [Family.run, loadInto, storeValue, jumpWhen, updateByAddress, compareWith, withOperand,
      hwf, withAddress_none]

end Form

/-! ### The data access -/

theorem storeValue_of_ge {address : AddressField} {index : IndexField} {s : State} {ea : Word}
    (v : Word) (hea : eaStd address index s = some ea) (hge : Config.memSize ≤ ea.toNat) :
    storeValue v address index s = .next (raise .addressFault (some ea) s) := by
  simp [storeValue, hea, memWrite_eq_none.2 hge]

/-- The families that access memory check the address before the operation (60_exceptions.md R247). -/
theorem exec_of_address_ge {i : Instr} {s : State} {ea : Word}
    (hop : accessesMemory (opNumber i) = true) (hea : effectiveAddress i s = some ea)
    (hge : Config.memSize ≤ ea.toNat) : exec i s = .next (raise .addressFault (some ea) s) := by
  have hd := familyOf_describes i
  have hform := indexing_eq_form i
  rw [accessesMemory_iff] at hop
  rw [exec_eq_run]
  cases hf : familyOf i with rw [hf] at hd hform
  | arithmetic op =>
    rw [effectiveAddress_of_arithmetic s hform] at hea
    rw [Family.run, Machine.arithmetic, hea, withOperand_of_ge _ hge]
  | load | compare =>
    rw [effectiveAddress_of_standard s hform] at hea
    simp only [Family.run, loadInto, compareWith, hea, withOperand_of_ge _ hge]
  | store source =>
    rw [effectiveAddress_of_standard s hform] at hea
    exact storeValue_of_ge _ hea hge
  | jump | reserved | update =>
    simp only [Family.Describes] at hd
    omega

/-! ### The causes of a fault -/

/-- What an instruction raises, and the one reason it raises it for (60_exceptions.md R242 to R245). -/
inductive Raised (i : Instr) (s : State) : FaultCause → Option Word → Prop where
  | unimplemented (hop : opNumber i = 40) : Raised i s .unimplemented none
  | index (hop : opNumber i ≠ 40) (hwf : i.wellFormed = false) : Raised i s .indexFault none
  | address (ea : Word) (hop : accessesMemory (opNumber i) = true)
      (hea : effectiveAddress i s = some ea) (hge : Config.memSize ≤ ea.toNat) :
      Raised i s .addressFault (some ea)
  | arithmetic (ea : Word) (hop : opNumber i = 4) (hea : eaArith i.address i.index s = some ea)
      (hlt : ea.toNat < Config.memSize) (hzero : wordAt ea s = 0) : Raised i s .arithmeticFault none

theorem Raised.index_of_eaStd {i : Instr} {s : State} (hop : opNumber i ≠ 40)
    (hform : i.indexing = .standard) (hea : eaStd i.address i.index s = none) :
    Raised i s .indexFault none :=
  .index hop ((wellFormed_eq_false_iff_eaStd s hform).2 hea)

theorem Raised.address_of_eaStd {i : Instr} {s : State} {ea : Word}
    (hop : (8 ≤ opNumber i ∧ opNumber i ≤ 15) ∨ (24 ≤ opNumber i ∧ opNumber i ≤ 33) ∨
      (56 ≤ opNumber i ∧ opNumber i ≤ 63)) (hform : i.indexing = .standard)
    (hea : eaStd i.address i.index s = some ea) (hge : Config.memSize ≤ ea.toNat) :
    Raised i s .addressFault (some ea) :=
  .address ea ((accessesMemory_iff _).2 (.inr hop))
    ((effectiveAddress_of_standard s hform).trans hea) hge

/-- Only DIV has an operation without a result, and only for the zero word (42_arithmetic.md R164). -/
theorem isDiv_of_no_result {i : Instr} {op : Word → Word → Option Word} {a v : Word}
    (hf : familyOf i = .arithmetic op) (h : op a v = none) : opNumber i = 4 ∧ v = 0 := by
  cases i with
  | add | sub | mul =>
    cases hf
    exact nomatch h
  | div =>
    cases hf
    exact ⟨rfl, divide_eq_none.1 h⟩
  | _ => exact nomatch hf

/-- An instruction keeps STATUS and FAULT, or raises a fault for its reason and does nothing else. -/
theorem exec_keeps_or_raises {i : Instr} {s t : State} (h : exec i s = .next t) :
    (t.status = s.status ∧ t.fault = s.fault) ∨
    ∃ cause ea, Raised i s cause ea ∧ t = raise cause ea s := by
  have hd := familyOf_describes i
  rw [exec_eq_run] at h
  cases hf : familyOf i with rw [hf] at h hd
  | arithmetic op =>
    obtain ⟨hlo, hhi, hform, -⟩ := hd
    rcases arithmetic_cases h with
      ⟨hea, rfl⟩ | ⟨ea, hea, hge, rfl⟩ | ⟨ea, hea, hlt, hnone, rfl⟩ | ⟨ea, v, -, -, -, rfl⟩
    · exact .inr ⟨_, _, .index (by omega) ((wellFormed_eq_false_iff_eaArith s hform).2 hea), rfl⟩
    · exact .inr ⟨_, _, .address ea ((accessesMemory_iff _).2 (.inl ⟨hlo, hhi⟩))
        ((effectiveAddress_of_arithmetic s hform).trans hea) hge, rfl⟩
    · obtain ⟨hop, hzero⟩ := isDiv_of_no_result hf hnone
      exact .inr ⟨_, _, .arithmetic ea hop hea hlt hzero, rfl⟩
    · exact .inl ⟨by simp, by simp⟩
  | load r =>
    obtain ⟨hlo, hhi, hform, -⟩ := hd
    rcases loadInto_cases h with ⟨hea, rfl⟩ | ⟨ea, hea, hge, rfl⟩ | ⟨ea, -, -, rfl⟩
    · exact .inr ⟨_, _, .index_of_eaStd (by omega) hform hea, rfl⟩
    · exact .inr ⟨_, _, .address_of_eaStd (.inl ⟨hlo, hhi⟩) hform hea hge, rfl⟩
    · exact .inl ⟨by simp, by simp⟩
  | store source =>
    obtain ⟨hlo, hhi, hform, -⟩ := hd
    rcases storeValue_cases h with ⟨hea, rfl⟩ | ⟨ea, hea, hge, rfl⟩ | ⟨ea, -, -, rfl⟩
    · exact .inr ⟨_, _, .index_of_eaStd (by omega) hform hea, rfl⟩
    · exact .inr ⟨_, _, .address_of_eaStd (.inr (.inl ⟨hlo, hhi⟩)) hform hea hge, rfl⟩
    · exact .inl ⟨rfl, rfl⟩
  | jump c k =>
    obtain ⟨hop, hform, -⟩ := hd
    rcases jumpWhen_cases h with ⟨hea, rfl⟩ | ⟨ea, -, -, rfl⟩ | ⟨ea, -, -, rfl⟩
    · exact .inr ⟨_, _, .index_of_eaStd (by omega) hform hea, rfl⟩
    · exact .inl ⟨jumped_status k ea s, jumped_fault k ea s⟩
    · exact .inl ⟨rfl, rfl⟩
  | reserved =>
    obtain rfl := next_inj.1 h
    exact .inr ⟨_, _, .unimplemented hd, rfl⟩
  | update op r =>
    obtain ⟨hlo, hhi, hform, -⟩ := hd
    rcases updateByAddress_cases h with ⟨hea, rfl⟩ | ⟨ea, -, rfl⟩
    · exact .inr ⟨_, _, .index_of_eaStd (by omega) hform hea, rfl⟩
    · exact .inl ⟨by simp, by simp⟩
  | compare r =>
    obtain ⟨hlo, hhi, hform, -⟩ := hd
    rcases compareWith_cases h with ⟨hea, rfl⟩ | ⟨ea, hea, hge, rfl⟩ | ⟨ea, -, -, rfl⟩
    · exact .inr ⟨_, _, .index_of_eaStd (by omega) hform hea, rfl⟩
    · exact .inr ⟨_, _, .address_of_eaStd (.inr (.inr ⟨hlo, hhi⟩)) hform hea hge, rfl⟩
    · exact .inl ⟨rfl, rfl⟩

/-! ### The obligations -/

/-- Settles O26: the check of the index field stands before everything else. -/
theorem illFormedIndexRaisesIndexFault : Obligations.IllFormedIndexRaisesIndexFault :=
  fun _ s => exec_of_illFormed s

/-- Settles O27: the check of the address stands before the operation. -/
theorem accessOutsideMemoryRaisesAddressFault : Obligations.AccessOutsideMemoryRaisesAddressFault :=
  fun _ _ _ => exec_of_address_ge

/-- Settles O29: a running machine is Faulted only by a raise, and each raise has its reason. -/
theorem faultKindsByFamily : Obligations.FaultKindsByFamily := by
  intro i s t hs h hfault
  rcases exec_keeps_or_raises h with ⟨hstatus, -⟩ | ⟨cause, ea, hraised, rfl⟩
  · exact nomatch hs.symm.trans (hstatus.symm.trans hfault)
  · refine ⟨_, rfl, ?_⟩
    cases hraised with
    | unimplemented hop => exact .inl ⟨hop, rfl⟩
    | index hop hwf => exact .inr (.inl ⟨hop, rfl, hwf⟩)
    | address ea hop hea hge => exact .inr (.inr (.inl ⟨hop, rfl, ea, rfl, hea, hge⟩))
    | arithmetic ea hop hea hlt hzero => exact .inr (.inr (.inr ⟨hop, rfl, ea, hea, hlt, hzero⟩))

/-- Settles O30: of the effects, a register write and a saving jump write the destination, and no other
writes a register. -/
theorem registersChangeOnlyAtTheDestination : Obligations.RegistersChangeOnlyAtTheDestination :=
  fun _ _ _ _ => exec_read_of_ne_destination

/-- Settles O31: of the effects, only a store writes memory, and it writes one word. -/
theorem memoryChangesOnlyAtTheStoredWord : Obligations.MemoryChangesOnlyAtTheStoredWord :=
  fun _ _ _ _ => exec_readByte_of_ne_target

/-- Settles O32: an instruction keeps STATUS and FAULT or raises. -/
theorem statusAndReportChangeOnlyByAFault : Obligations.StatusAndReportChangeOnlyByAFault :=
  fun _ _ _ h => (exec_keeps_or_raises h).imp_right fun ⟨cause, ea, _, ht⟩ => ⟨cause, ea, ht⟩

/-- Settles O35: who writes A and X is who has them as destination, and states that differ in one of them
are run side by side for who reads it. -/
theorem accumulatorAndExtensionDoNotMeet : Obligations.AccumulatorAndExtensionDoNotMeet := by
  refine ⟨fun i s t h => ⟨fun hne => ?_, fun hne => ?_⟩, fun i s t u v hst hcmp ht hu => ?_,
    fun i s t u v hst hcmp ht hu => ?_⟩
  · exact opNumber_of_destination_a (by_contra fun hd => hne (exec_read_of_ne_destination h hd))
  · exact opNumber_of_destination_x (by_contra fun hd => hne (exec_read_of_ne_destination h hd))
  · obtain ⟨w, rfl⟩ := exec_differInRegister_x hst hcmp ⟨v, rfl⟩ t u ht hu
    rfl
  · obtain ⟨w, rfl⟩ := exec_differInRegister_a hst hcmp ⟨v, rfl⟩ t u ht hu
    rfl

end Sys2Proof.Machine

/-! The step: it always answers a next state, it runs the fetched instruction, it faults precisely, and it
keeps the invariant of the states (40_fetch_dispatch.md R100, 60_exceptions.md R249, 10_state.md R35). -/

namespace Sys2Proof.Machine

open Sys2Proof.Statements

/-! ### Every step answers a next state (log entry 2) -/

theorem exists_next_withAddress (ea : Option Word) (s : State) {f : Word → Result}
    (hf : ∀ a, ∃ t, f a = .next t) : ∃ t, withAddress ea s f = .next t := by
  cases ea with
  | none => exact ⟨_, rfl⟩
  | some a => exact hf a

theorem exists_next_withOperand (ea : Option Word) (s : State) {f : Word → Result}
    (hf : ∀ v, ∃ t, f v = .next t) : ∃ t, withOperand ea s f = .next t :=
  exists_next_withAddress ea s fun a => by
    cases memRead a s with
    | none => exact ⟨_, rfl⟩
    | some v => exact hf v

theorem exec_exists_next (i : Instr) (s : State) : ∃ t, exec i s = .next t := by
  rw [exec_eq_run]
  cases familyOf i with
  | arithmetic op =>
    refine exists_next_withOperand _ s fun v => ?_
    cases op s.a v with
    | none => exact ⟨_, rfl⟩
    | some result => exact ⟨_, rfl⟩
  | load | compare => exact exists_next_withOperand _ s fun v => ⟨_, rfl⟩
  | store source =>
    refine exists_next_withAddress _ s fun ea => ?_
    cases memWrite ea (storedWord source s) s with
    | none => exact ⟨_, rfl⟩
    | some t => exact ⟨_, rfl⟩
  | jump c k =>
    refine exists_next_withAddress _ s fun ea => ?_
    split
    · exact ⟨_, rfl⟩
    · exact ⟨_, rfl⟩
  | reserved => exact ⟨_, rfl⟩
  | update => exact exists_next_withAddress _ s fun ea => ⟨_, rfl⟩

theorem runWord_exists_next (w : Word) (s : State) : ∃ t, runWord exec w s = .next t := by
  unfold runWord
  cases decode w with
  | reject why => exact ⟨_, rfl⟩
  | instr i =>
    obtain ⟨t, ht⟩ := exec_exists_next i s
    exact ⟨haltCheck t, by simp only [ht, afterExecution]⟩

theorem step_exists_next (s : State) : ∃ t, step s = .next t := by
  rcases step_cases s with ⟨-, h⟩ | ⟨-, -, h⟩ | ⟨-, -, -, h⟩ | ⟨w, -, -, -, h⟩
  · exact ⟨_, h⟩
  · exact ⟨_, h⟩
  · exact ⟨_, h⟩
  · rw [h]
    exact runWord_exists_next w s

/-! ### An ended machine -/

theorem step_of_ended {s : State} (h : s.status ≠ .running) : step s = .next s := by
  rcases step_cases s with ⟨-, hs⟩ | ⟨hs, -⟩ | ⟨hs, -⟩ | ⟨w, hs, -⟩
  · exact hs
  · exact absurd hs h
  · exact absurd hs h
  · exact absurd hs h

/-- Any number of steps from a state that steps to itself. -/
theorem coreRun_of_fixed {s : State} (h : step s = .next s) (n : Nat) :
    Host.Core.run core n s = .next s := by
  induction n with
  | zero => rfl
  | succ n ih => exact (run_succ n h).trans ih

theorem coreRun_of_ended {s : State} (h : s.status ≠ .running) (n : Nat) :
    Host.Core.run core n s = .next s :=
  coreRun_of_fixed (step_of_ended h) n

theorem run_of_ended {s : State} (h : s.status ≠ .running) (n : Nat) : run n s = .next s := by
  cases n with
  | zero => rfl
  | succ n =>
    cases hs : s.status with
    | running => exact absurd hs h
    | halted | faulted => simp only [run, hs]

/-- The run that stops at the end of the machine is the run that goes on: an ended machine stays. -/
theorem run_eq_coreRun (n : Nat) (s : State) : run n s = Host.Core.run core n s := by
  induction n generalizing s with
  | zero => rfl
  | succ n ih =>
    by_cases hs : s.status = .running
    · obtain ⟨t, ht⟩ := step_exists_next s
      rw [run_succ n ht, ← ih t]
      simp only [run, hs, ht]
    · exact (run_of_ended hs _).trans (coreRun_of_ended hs _).symm

/-! ### The halt check after an advance -/

/-- The pc of a fetched instruction is below MEM_SIZE, so the next one is not 0. -/
theorem pc_add_one_ne_zero {pc : Pc} (h : pc.toNat < Config.memSize) : pc + 1 ≠ 0 := fun e => by
  have hadd := pc_add_one_toNat h
  rw [e] at hadd
  exact nomatch hadd

/-- A fetched instruction that advances does not halt. -/
theorem haltCheck_advance {s : State} (h : s.pc.toNat < Config.memSize) :
    haltCheck (advance s) = advance s :=
  haltCheck_of_pc_ne (pc_add_one_ne_zero h)

/-! ### The report of a fault -/

theorem memRead_eq_ite (s : State) :
    memRead s.pc s = if s.pc.toNat < Config.memSize then some (wordAt s.pc s) else none := by
  simp only [memRead, inMemory_iff, wordAt]

theorem raise_eq (cause : FaultCause) (ea : Option Word) (s : State) :
    raise cause ea s =
      { s with
        status := .faulted
        fault := some
          { cause := cause
            pc := s.pc
            word := if s.pc.toNat < Config.memSize then some (wordAt s.pc s) else none
            ea := ea } } := by
  rw [raise, memRead_eq_ite]

/-- A cause and an effective address that a fault at `s` may report: the fetch names no word and gives no
address, and of the faults of a fetched word AddressFault alone gives one (60_exceptions.md R249, D13). -/
inductive Reportable (s : State) : FaultCause → Option Word → Prop where
  | fetch (hpc : Config.memSize ≤ s.pc.toNat) : Reportable s .addressFault none
  | access (ea : Word) (hpc : s.pc.toNat < Config.memSize) (hge : Config.memSize ≤ ea.toNat) :
      Reportable s .addressFault (some ea)
  | other {cause : FaultCause} (hpc : s.pc.toNat < Config.memSize) (hcause : cause ≠ .addressFault) :
      Reportable s cause none

theorem Raised.reportable {i : Instr} {s : State} {cause : FaultCause} {ea : Option Word}
    (h : Raised i s cause ea) (hpc : s.pc.toNat < Config.memSize) : Reportable s cause ea := by
  cases h with
  | unimplemented | index | arithmetic => exact .other hpc nofun
  | address ea hop hea hge => exact .access ea hpc hge

theorem haltCheck_raise (cause : FaultCause) (ea : Option Word) (s : State) :
    haltCheck (raise cause ea s) = raise cause ea s :=
  haltCheck_of_not_running nofun

@[simp] theorem haltCheck_fault (s : State) : (haltCheck s).fault = s.fault := by
  rcases haltCheck_cases s with h | ⟨-, -, h⟩ <;> simp [h]

@[simp] theorem haltCheck_mem (s : State) : (haltCheck s).mem = s.mem := by
  rcases haltCheck_cases s with h | ⟨-, -, h⟩ <;> simp [h]

/-- A step of a running machine raises a fault and does nothing else, or ends not Faulted and keeps FAULT. -/
theorem step_raises_or_keeps {s t : State} (hs : s.status = .running) (h : step s = .next t) :
    (∃ cause ea, Reportable s cause ea ∧ t = raise cause ea s) ∨
    (t.status ≠ .faulted ∧ t.fault = s.fault) := by
  rcases step_cases s with ⟨hn, -⟩ | ⟨-, -, hstep⟩ | ⟨-, -, hge, hstep⟩ | ⟨w, -, -, hw, hstep⟩
  · exact absurd hs hn
  · obtain rfl := next_inj.1 (hstep.symm.trans h)
    exact .inr ⟨nofun, rfl⟩
  · exact .inl ⟨_, _, .fetch hge, next_inj.1 (h.symm.trans hstep)⟩
  · obtain ⟨hlt, -⟩ := memRead_eq_some.1 hw
    rcases runWord_cases (hstep.symm.trans h) with ⟨-, -, rfl⟩ | ⟨i, u, -, hexec, rfl⟩
    · exact .inl ⟨.decodeFault, none, .other hlt nofun, rfl⟩
    · rcases exec_keeps_or_raises hexec with ⟨hstatus, hfault⟩ | ⟨cause, ea, hraised, rfl⟩
      · refine .inr ⟨fun hf => ?_, (haltCheck_fault u).trans hfault⟩
        exact nomatch hs.symm.trans (hstatus.symm.trans (status_of_haltCheck_faulted hf))
      · exact .inl ⟨cause, ea, hraised.reportable hlt, haltCheck_raise cause ea s⟩

/-! ### The invariant -/

/-- What a reportable fault writes to FAULT describes the faulted state (10_state.md R31). -/
theorem Reportable.describes {s : State} {cause : FaultCause} {ea : Option Word}
    (h : Reportable s cause ea) (r : FaultRecord) (hr : (raise cause ea s).fault = some r) :
    r.Describes (raise cause ea s) := by
  obtain rfl := Option.some.inj hr
  cases h with
  | fetch hpc =>
    have hword : memRead s.pc s = none := memRead_eq_none.2 hpc
    exact ⟨rfl, rfl, fun _ => rfl, by simp [hword], nofun⟩
  | access ea hpc hge =>
    have hword : memRead s.pc s = some (wordAt s.pc s) := memRead_eq_some.2 ⟨hpc, rfl⟩
    refine ⟨rfl, rfl, fun _ => rfl, by simp [hword], fun e he => ?_⟩
    exact Option.some.inj he ▸ hge
  | other hpc hcause =>
    have hword : memRead s.pc s = some (wordAt s.pc s) := memRead_eq_some.2 ⟨hpc, rfl⟩
    exact ⟨rfl, rfl, fun e => (nomatch hword.symm.trans e), by simp [hcause], nofun⟩

theorem step_mem_wf {s t : State} (h : step s = .next t) (hs : s.mem.wf = true) :
    t.mem.wf = true := by
  rcases step_cases s with ⟨-, hstep⟩ | ⟨-, -, hstep⟩ | ⟨-, -, -, hstep⟩ | ⟨w, -, -, -, hstep⟩
  · exact next_inj.1 (hstep.symm.trans h) ▸ hs
  · exact next_inj.1 (hstep.symm.trans h) ▸ hs
  · exact next_inj.1 (hstep.symm.trans h) ▸ hs
  · rcases runWord_cases (hstep.symm.trans h) with ⟨-, -, rfl⟩ | ⟨i, u, -, hexec, rfl⟩
    · exact hs
    · rw [haltCheck_mem]
      exact exec_mem_wf hexec hs

/-- In a running state of the invariant FAULT is invalid. -/
theorem State.Inv.fault_eq_none {s : State} (hinv : s.Inv) (hs : s.status = .running) :
    s.fault = none := by
  refine Option.not_isSome_iff_eq_none.1 fun hf => ?_
  exact nomatch hs.symm.trans (hinv.fault_valid.2 hf)

/-- Every step keeps the invariant: an ended machine stays, a raise reports the state it is in, and any
other step keeps FAULT and halts exactly at pc = 0. -/
theorem inv_step {s t : State} (hinv : s.Inv) (h : step s = .next t) : t.Inv := by
  by_cases hs : s.status = .running
  · have hpc : s.pc ≠ 0 := hinv.running_pc hs
    obtain ⟨hhalt, -⟩ := step_halts_iff hs hpc h
    have hmem := step_mem_wf h hinv.mem_wf
    rcases step_raises_or_keeps hs h with ⟨cause, ea, hrep, rfl⟩ | ⟨hstatus, hfault⟩
    · exact ⟨hmem, nofun, nofun, iff_of_true rfl rfl, hrep.describes⟩
    · have hnone : t.fault = none := hfault.trans (hinv.fault_eq_none hs)
      refine ⟨hmem, hhalt.1, fun hr hz => ?_, iff_of_false hstatus (by simp [hnone]), fun r hr => ?_⟩
      · exact nomatch hr.symm.trans (hhalt.2 hz)
      · exact nomatch hnone.symm.trans hr
  · exact next_inj.1 ((step_of_ended hs).symm.trans h) ▸ hinv

theorem inv_reset : State.reset.Inv :=
  ⟨wf_reset, nofun, fun _ => by decide, iff_of_false nofun nofun, nofun⟩

/-- A load of the host before the first step keeps the invariant and the machine running. -/
theorem inv_load {s : State} (hinv : s.Inv) (hs : s.status = .running)
    (a : Fin Config.memSize) (w : Word) : (load a w s).Inv ∧ (load a w s).status = .running := by
  have hnone : (load a w s).fault = none := hinv.fault_eq_none hs
  refine ⟨⟨wf_writeWord w a.isLt hinv.mem_wf, hinv.halted_pc, hinv.running_pc, hinv.fault_valid,
    fun r hr => ?_⟩, hs⟩
  exact nomatch hnone.symm.trans hr

theorem inv_loads (program : List (Fin Config.memSize × Word)) {s : State} (hinv : s.Inv)
    (hs : s.status = .running) :
    (program.foldl (fun s cell => load cell.1 cell.2 s) s).Inv := by
  induction program generalizing s with
  | nil => exact hinv
  | cons cell rest ih =>
    obtain ⟨hinv', hs'⟩ := inv_load hinv hs cell.1 cell.2
    exact ih hinv' hs'

/-- Any number of steps from a state of the invariant answers a next state of the invariant. -/
theorem coreRun_inv (n : Nat) {s : State} (hinv : s.Inv) :
    ∃ t, Host.Core.run core n s = .next t ∧ t.Inv := by
  induction n generalizing s with
  | zero => exact ⟨s, rfl, hinv⟩
  | succ n ih =>
    obtain ⟨u, hu⟩ := step_exists_next s
    obtain ⟨t, ht, hinv'⟩ := ih (inv_step hinv hu)
    exact ⟨t, (run_succ n hu).trans ht, hinv'⟩

/-! ### The obligations -/

/-- Settles O43: a step that ends Faulted is a raise, which reports pc and M[pc]. -/
theorem faultsArePreciseAndHaveNoOtherEffect : Obligations.FaultsArePreciseAndHaveNoOtherEffect := by
  intro s t hs h hfault
  rcases step_raises_or_keeps hs h with ⟨cause, ea, -, rfl⟩ | ⟨hne, -⟩
  · exact ⟨cause, ea, raise_eq cause ea s⟩
  · exact absurd hfault hne

/-- Settles O44: the parts of the invariant from the shape of a step. -/
theorem stepKeepsTheInvariant : Obligations.StepKeepsTheInvariant :=
  fun _ _ hinv h => inv_step hinv h

/-- Settles O46: by induction on the loads and then on the steps. -/
theorem everyRunOfALoadedProgramKeepsTheInvariant :
    Obligations.EveryRunOfALoadedProgramKeepsTheInvariant :=
  fun program n => coreRun_inv n (inv_loads program inv_reset rfl)

/-- Settles O45: memory is empty, the pc is 1 and FAULT is invalid. -/
theorem resetSatisfiesTheInvariant : Obligations.ResetSatisfiesTheInvariant :=
  inv_reset

/-- Settles O11: the word decodes to RESERVED40, whose meaning raises whatever its fields. -/
theorem reservedOpcodeRaisesUnimplemented : Obligations.ReservedOpcodeRaisesUnimplemented := by
  refine ⟨fun _ _ _ _ => rfl, fun w s hfetch hop => ?_⟩
  rw [← opcodeField_toNat] at hop
  have hd : decode w = .instr (.reserved40 (addressField w) (indexField w) (modifierField w)) := by
    simp only [decode, hop]
  rw [step_of_decode hfetch hd rfl, haltCheck_raise]

/-- Settles O12: the word reported is M[pc], absent where pc names no word. -/
theorem takingAFaultWritesStatusAndReport : Obligations.TakingAFaultWritesStatusAndReport :=
  raise_eq

/-- Settles O37: the meaning answers a next state, and the halt check is the rest of the step. -/
theorem stepRunsTheDecodedInstruction : Obligations.StepRunsTheDecodedInstruction := by
  intro w i s hfetch hd
  obtain ⟨t, ht⟩ := exec_exists_next i s
  refine ⟨t, ht, fun hr hz => ?_, fun hne => ?_⟩ <;> rw [step_of_decode hfetch hd ht]
  · rw [haltCheck_of_pc_eq hr hz, halt]
  · rcases hne with hr | hz
    · rw [haltCheck_of_not_running hr]
    · rw [haltCheck_of_pc_ne hz]

/-- Settles O38: at a pc above memory the step is the raise of the fetch, which reports no word. -/
theorem fetchOutsideMemoryRaisesAddressFault : Obligations.FetchOutsideMemoryRaisesAddressFault := by
  intro s hs hge
  rcases step_cases s with ⟨hn, -⟩ | ⟨-, hz, -⟩ | ⟨-, -, -, hstep⟩ | ⟨w, -, -, hw, -⟩
  · exact absurd hs hn
  · rw [hz] at hge
    exact absurd hge (by decide)
  · rw [hstep, raise_eq, if_neg (not_lt.2 hge)]
  · obtain ⟨hlt, -⟩ := memRead_eq_some.1 hw
    exact absurd hge (not_le.2 hlt)

/-- Settles O39: a step of an ended machine changes nothing, so neither does any number of them. -/
theorem endedMachineStaysAsItIs : Obligations.EndedMachineStaysAsItIs :=
  fun n _ h => ⟨step_of_ended h, coreRun_of_ended h n, run_of_ended h n⟩

/-- Settles O42: each family answers a next state, on its faulting paths too. -/
theorem everyStepCompletes : Obligations.EveryStepCompletes :=
  ⟨exec_exists_next, step_exists_next⟩

/-- Settles O57: by induction on the fuel; where `run` stops, further steps change nothing. -/
theorem runIsRepeatedStep : Obligations.RunIsRepeatedStep :=
  run_eq_coreRun

end Sys2Proof.Machine

/-! Instructions run one after the other, the canonical form of memory, and the host's placing of words
(20_memory.md section 6, 41_load_store.md, 70_reset_and_hazards.md sections 2 and 3). -/

namespace Sys2Proof.Machine

open Sys2Proof.Statements

/-! ### Memories that read alike -/

/-- In the canonical form a byte that is not the unlisted one is read exactly where it is listed. -/
theorem mem_iff_readByte {m : Memory} (h : m.wf = true) (c : Host.Cell) :
    c ∈ m ↔ readByte m c.1 = c.2 ∧ c.2 ≠ unlistedByte := by
  rw [Memory.wf_iff] at h
  obtain ⟨hrise, hadm⟩ := h
  induction m with
  | nil => simp [readByte, eq_comm]
  | cons d rest ih =>
    obtain ⟨hd, hrise⟩ := List.pairwise_cons.1 hrise
    obtain ⟨⟨-, hdne⟩, hadm⟩ := List.forall_mem_cons.1 hadm
    rw [List.mem_cons, readByte]
    by_cases hkey : d.1 = c.1
    · rw [if_pos hkey]
      constructor
      · rintro (rfl | hc)
        · exact ⟨rfl, hdne⟩
        · exact absurd hkey (hd c hc).ne
      · rintro ⟨hb, -⟩
        exact .inl (Prod.ext hkey.symm hb.symm)
    · rw [if_neg hkey, ← ih hrise hadm]
      exact or_iff_right fun e => hkey (e ▸ rfl)

/-- The canonical form is one list for one memory: its cells are those that read as they say, in order. -/
theorem eq_of_readByte_eq {m n : Memory} (hm : m.wf = true) (hn : n.wf = true)
    (h : ∀ k, readByte m k = readByte n k) : m = n := by
  obtain ⟨hmrise, -⟩ := (Memory.wf_iff m).1 hm
  obtain ⟨hnrise, -⟩ := (Memory.wf_iff n).1 hn
  have hcells : ∀ c, c ∈ m ↔ c ∈ n := fun c => by
    rw [mem_iff_readByte hm, mem_iff_readByte hn, h]
  have hne {c d : Host.Cell} (hlt : c.1 < d.1) : c ≠ d := fun e => hlt.ne (e ▸ rfl)
  have hperm : m.Perm n :=
    (List.perm_ext_iff_of_nodup (hmrise.imp hne) (hnrise.imp hne)).2 hcells
  exact hperm.eq_of_pairwise (fun c d _ _ hcd hdc => absurd hcd hdc.not_gt) hmrise hnrise

/-- Writing back the word that is there changes nothing. -/
theorem writeWord_readWord {m : Memory} {a : Nat} (ha : a < Config.memSize) (h : m.wf = true) :
    writeWord m a (readWord m a) = m := by
  refine eq_of_readByte_eq (wf_writeWord _ ha h) h fun k => ?_
  rw [readByte_writeWord]
  split
  · next hk =>
    rw [wordByte_readWord m a (Nat.mod_lt k (by decide))]
    congr 1
    omega
  · rfl

/-! ### The instructions of a register -/

theorem exec_storeOf {r : Reg} {i : Instr} {address : AddressField} {index modifier : Byte}
    (h : storeOf r address index modifier = some i) (s : State) :
    exec i s = storeValue (s.read r) address index s := by
  cases r <;> cases h <;> rfl

theorem exec_loadOf {r : Reg} {i : Instr} {address : AddressField} {index modifier : Byte}
    (h : loadOf r address index modifier = some i) (s : State) :
    exec i s = loadInto r address index s := by
  cases r <;> cases h <;> rfl

theorem exec_enterOf {r : Reg} {i : Instr} {address : AddressField} {index : Byte}
    (h : enterOf r address index = some i) (s : State) :
    exec i s = updateByAddress entered r address index s := by
  cases r <;> cases h <;> rfl

/-! ### The address after a first instruction -/

/-- The state a completed store leaves. -/
def stored (ea v : Word) (s : State) : State :=
  advance { s with mem := writeWord s.mem ea.toNat v }

@[simp] theorem read_stored (ea v : Word) (s : State) (r : Reg) : (stored ea v s).read r = s.read r := by
  simp [stored]

@[simp] theorem wordAt_stored (ea v : Word) (s : State) : wordAt ea (stored ea v s) = v :=
  readWord_writeWord_same _ _ _

theorem haltCheck_stored (ea v : Word) {s : State} (h : s.pc.toNat < Config.memSize) :
    haltCheck (stored ea v s) = stored ea v s :=
  haltCheck_advance h

theorem eaStd_stored (address : AddressField) (index : IndexField) (ea v : Word) (s : State) :
    eaStd address index (stored ea v s) = eaStd address index s :=
  eaStd_congr fun r _ _ _ => read_stored ea v s r

/-- A write to a register that the index field does not name leaves the effective address. -/
theorem eaStd_write_of_ne {address : AddressField} {index : IndexField} {s : State} {r : Reg}
    (h : indexRegister index.toNat ≠ some r) (v : Word) :
    eaStd address index (s.write r v) = eaStd address index s := by
  unfold eaStd
  cases hq : indexRegister index.toNat with
  | none => rfl
  | some q =>
    have hne : q ≠ r := fun e => h (e ▸ hq)
    simp only [s.read_write_other v hne]

theorem eaStd_advance (address : AddressField) (index : IndexField) (s : State) :
    eaStd address index (advance s) = eaStd address index s :=
  eaStd_congr fun r _ _ _ => read_advance s r

theorem State.write_write_same (s : State) (r : Reg) (v w : Word) :
    (s.write r v).write r w = s.write r w := by
  cases r <;> rfl

theorem exec_storeOf_of_lt {r : Reg} {st : Instr} {address : AddressField} {index m : Byte}
    {s : State} {ea : Word} (hst : storeOf r address index m = some st)
    (hea : eaStd address index s = some ea) (hlt : ea.toNat < Config.memSize) :
    exec st s = .next (stored ea (s.read r) s) :=
  (exec_storeOf hst s).trans (storeValue_of_lt _ hea hlt)

/-! ### A jump to itself -/

/-- What the jump needs does not depend on J. -/
theorem fetches_write_j {w : Word} {s : State} (h : Fetches w s) (v : Word) :
    Fetches w (s.write .j v) := h

/-- A fetched JMP to its own address writes J and nothing else, and halts nothing: pc is not 0. -/
theorem step_of_jump_to_itself {w : Word} {address : AddressField} {index : IndexField} {s : State}
    (hfetch : Fetches w s) (hd : decode w = .instr (.jmp address index))
    (hea : eaStd address index s = some s.pc) : step s = .next (s.write .j (s.pc + 1)) := by
  have hexec : exec (.jmp address index) s = .next (s.write .j (s.pc + 1)) :=
    jumpWhen_of_holds hea rfl
  obtain ⟨-, hpc, -⟩ := fetches_write_j hfetch (s.pc + 1)
  rw [step_of_decode hfetch hd hexec, haltCheck_of_pc_ne hpc]

/-! ### The word placed by the host -/

theorem ofNat_toNat_mod (w : Word) : BitVec.ofNat 64 (w.toNat % 2 ^ 64) = w := by
  rw [Nat.mod_eq_of_lt w.isLt, BitVec.ofNat_toNat, BitVec.setWidth_eq]

/-- A word placed at a pc inside memory is written there, all 64 bits of it. -/
theorem withFetchWord_of_lt {s : State} (w : Word) (h : s.pc.toNat < Config.memSize) :
    s.withFetchWord 64 w.toNat = { s with mem := writeWord s.mem s.pc.toNat w } := by
  simp only [State.withFetchWord, ofNat_toNat_mod, placeAtPc, memWrite_eq_some.2 ⟨h, rfl⟩]

theorem decodeTableWord_toNat {w : Word} {i : Instr} (h : decode w = .instr i) :
    decodeTableWord 64 w.toNat = some i := by
  simp only [decodeTableWord, ofNat_toNat_mod, h]

/-! ### The obligations -/

/-- Settles O48: the store leaves the effective address, and the word it wrote is the one read. -/
theorem storedWordIsLoadedBack : Obligations.StoredWordIsLoadedBack := by
  intro r q st ld address index m n s ea hst hld hea hlt
  have hload := loadInto_of_lt q ((eaStd_stored _ _ ea (s.read r) s).trans hea) hlt
  refine ⟨_, _, exec_storeOf_of_lt hst hea hlt, (exec_loadOf hld _).trans hload, ?_⟩
  rw [read_advance, State.read_write_same, wordAt_stored]

/-- Settles O49: the load leaves the effective address, and the store writes back the word that is there. -/
theorem loadThenStoreLeavesMemoryAsItWas : Obligations.LoadThenStoreLeavesMemoryAsItWas := by
  intro r st ld address index m n s ea hst hld hne hwf hea hlt
  have hload := (exec_loadOf hld s).trans (loadInto_of_lt r hea hlt)
  have hea' : eaStd address index (advance (s.write r (wordAt ea s))) = some ea := by
    rw [eaStd_advance, eaStd_write_of_ne hne, hea]
  refine ⟨_, _, hload, exec_storeOf_of_lt hst hea' hlt, ?_⟩
  simp only [stored, read_advance, State.read_write_same, advance_mem, State.write_mem]
  exact writeWord_readWord hlt hwf

/-- Settles O50: the word compared with is the one stored, which the register still holds. -/
theorem compareWithTheWordJustStoredGivesEqual :
    Obligations.CompareWithTheWordJustStoredGivesEqual := by
  intro r st cmp address index m n s ea hst hcmp hea hlt
  have hcompare := compareWith_of_lt r ((eaStd_stored _ _ ea (s.read r) s).trans hea) hlt
  refine ⟨_, _, exec_storeOf_of_lt hst hea hlt, (exec_compareOf hcmp _).trans hcompare, ?_⟩
  rw [read_stored, wordAt_stored, advance_ci, setFlag_ci]
  obtain ⟨-, hequal, -⟩ := cmp3_iff (s.read r) (s.read r)
  exact hequal.2 rfl

/-- Settles O51: the store advances to the word it wrote, and the halt check leaves it: pc + 1 is not 0. -/
theorem storeIntoTheNextInstructionIsFetched : Obligations.StoreIntoTheNextInstructionIsFetched := by
  intro r st address index m w s hfetch hd hst hea hlt
  have hstep := step_of_decode hfetch hd (exec_storeOf_of_lt hst hea hlt)
  obtain ⟨hrun, -, hpc, -⟩ := hfetch
  rw [haltCheck_stored _ _ hpc] at hstep
  exact ⟨_, hstep, hrun, pc_add_one_ne_zero hpc, hlt, wordAt_stored _ _ _⟩

/-- Settles O52: the state the first jump leaves jumps to itself and has J written already. -/
theorem jumpToItselfRunsForever : Obligations.JumpToItselfRunsForever := by
  intro w address index s hfetch hd hea n
  have hea' : eaStd address index (s.write .j (s.pc + 1)) = some s.pc :=
    (eaStd_congr fun r _ _ hj => s.read_write_other _ hj).trans hea
  have hagain := step_of_jump_to_itself (fetches_write_j hfetch (s.pc + 1)) hd hea'
  exact (run_succ n (step_of_jump_to_itself hfetch hd hea)).trans (coreRun_of_fixed hagain n)

/-- Settles O53: neither the effective address nor the value entered depends on the register. -/
theorem enterIgnoresTheOldValue : Obligations.EnterIgnoresTheOldValue := by
  intro r i address index v s hi hle hne
  obtain ⟨ea, hea⟩ : ∃ ea, eaStd address index s = some ea :=
    Option.ne_none_iff_exists'.1 fun h => by
      have := eaStd_eq_none.1 h
      omega
  have hea' : eaStd address index (s.write r v) = some ea := (eaStd_write_of_ne hne v).trans hea
  rw [exec_enterOf hi, exec_enterOf hi, updateByAddress_of_some _ _ hea,
    updateByAddress_of_some _ _ hea', State.write_write_same]
  rfl

/-- Settles O54: both lists hold the cells that read as they say, in rising order. -/
theorem canonicalMemoriesThatReadAlikeAreEqual :
    Obligations.CanonicalMemoriesThatReadAlikeAreEqual :=
  fun _ _ => eq_of_readByte_eq

/-- Settles O55: a load of the host is one write of a word. -/
theorem hostLoadWritesOneWord : Obligations.HostLoadWritesOneWord :=
  fun _ w s =>
    ⟨readWord_writeWord_same _ _ w, fun _ hb => readWord_writeWord_other s.mem w hb, rfl⟩

/-- Settles O56: placing the word is one write at pc, where the next step fetches. -/
theorem placedInstructionIsTheOneThatRuns : Obligations.PlacedInstructionIsTheOneThatRuns := by
  intro w i s hs hp hlt hd
  rw [withFetchWord_of_lt w hlt]
  exact ⟨⟨hs, hp, hlt, readWord_writeWord_same _ _ w⟩, decodeTableWord_toNat hd, rfl,
    fun b hb => readWord_writeWord_other s.mem w hb⟩

end Sys2Proof.Machine

/-! The machine is the reference machine: the step over instructions answers what the step over field numbers
and selectors answers (40_fetch_dispatch.md R100 to R107, 60_exceptions.md R247). -/

namespace Sys2Proof.Machine

open Sys2Proof.Statements

/-! ### Registers and addresses by number -/

/-- I[k] is x[k] (10_state.md R23). -/
theorem indexRegister_eq_refRegister {k : Nat} (hlow : 1 ≤ k) (hhigh : k ≤ 6) :
    indexRegister k = some (refRegister k) := by
  interval_cases k <;> rfl

theorem refAddress_standard (address : AddressField) (index : IndexField) (s : State) :
    refAddress false address.toNat index.toNat s = (eaStd address index s).map BitVec.toNat := by
  simp only [refAddress, Bool.false_eq_true, if_false]
  by_cases hzero : index.toNat = 0
  · rw [if_pos hzero, eaStd_of_index_eq_zero hzero, Option.map_some, zext64_toNat]
  · rw [if_neg hzero]
    by_cases hle : index.toNat ≤ 6
    · have hr := indexRegister_eq_refRegister (Nat.pos_of_ne_zero hzero) hle
      rw [if_pos hle, eaStd_of_register hr, Option.map_some, zext64_add_toNat, refValue]
    · rw [if_neg hle, eaStd_eq_none.2 (Nat.lt_of_not_le hle), Option.map_none]

theorem refAddress_arithmetic (address : AddressField) (index : IndexField) (s : State) :
    refAddress true address.toNat index.toNat s = (eaArith address index s).map BitVec.toNat := by
  simp only [refAddress, if_true]
  by_cases hle : index.toNat ≤ 5
  · have hr := indexRegister_eq_refRegister (Nat.succ_pos _) (Nat.succ_le_succ hle)
    rw [if_pos hle, eaArith_of_register hr, Option.map_some, zext64_add_toNat, refValue]
  · rw [if_neg hle, eaArith_eq_none.2 (Nat.lt_of_not_le hle), Option.map_none]

/-- The opcode chooses the form of the effective address: 1 to 4 the arithmetic one. -/
theorem refAddress_eq_effectiveAddress {i : Instr} (h : opNumber i ≠ 40) (s : State) :
    refAddress (decide (opNumber i ≤ 4)) i.address.toNat i.index.toNat s =
      (effectiveAddress i s).map BitVec.toNat := by
  have hd := familyOf_describes i
  have hform := indexing_eq_form i
  cases hf : familyOf i with rw [hf] at hd hform
  | arithmetic op =>
    obtain ⟨-, hle, -⟩ := hd
    rw [effectiveAddress_of_arithmetic s hform, decide_eq_true hle, refAddress_arithmetic]
  | reserved => exact absurd hd h
  | load | store | jump | update | compare =>
    have hgt : ¬ opNumber i ≤ 4 := by
      simp only [Family.Describes] at hd
      omega
    rw [effectiveAddress_of_standard s hform, decide_eq_false hgt, refAddress_standard]

/-! ### The checks of the reference machine -/

/-- The word fetched at pc is the one a fault reports. -/
theorem refRaise_eq_raise {w : Word} {s : State} (hw : memRead s.pc s = some w) (cause : FaultCause)
    (ea : Option Word) : refRaise cause (some w) ea s = raise cause ea s := by
  rw [raise, hw, refRaise]

/-- The reference machine rejects the words whose pair is not listed, and raises DecodeFault. -/
theorem refWord_of_not_listed {w : Word} (s : State)
    (h : ¬ PairListed (w.toNat % 2 ^ 8) (w.toNat / 2 ^ 8 % 2 ^ 8)) :
    refWord w s = refRaise .decodeFault (some w) none s := by
  unfold PairListed at h
  simp only [refWord]
  generalize w.toNat % 2 ^ 8 = opcode at *
  generalize w.toNat / 2 ^ 8 % 2 ^ 8 = modifier at *
  push Not at h
  obtain ⟨hacc, h40, hjump, hupdate⟩ := h
  rw [if_neg h40]
  by_cases hop : accessesMemory opcode ∨ opcode = 39 ∨ (48 ≤ opcode ∧ opcode ≤ 55)
  · rw [if_neg (not_not.2 hop), if_pos]
    rcases hop with h | h | ⟨hlow, hhigh⟩
    · exact absurd h hacc
    · exact .inl ⟨h, hjump h⟩
    · exact .inr ⟨hlow, hhigh, hupdate hlow hhigh⟩
  · rw [if_pos hop]

/-- The numbers of a word that decodes are those of its instruction. -/
theorem numbers_of_decode {w : Word} {i : Instr} (hd : decode w = .instr i) :
    w.toNat % 2 ^ 8 = opNumber i ∧ w.toNat / 2 ^ 8 % 2 ^ 8 = modNumber i ∧
      w.toNat / 2 ^ 16 % 2 ^ 8 = i.index.toNat ∧ w.toNat / 2 ^ 24 = i.address.toNat := by
  obtain ⟨haddress, hindex, -⟩ := hasFieldsOf_of_decode hd
  exact ⟨(opNumber_of_decode hd).symm, (modNumber_of_decode hd).symm,
    by rw [hindex, indexField_toNat], by rw [haddress, addressField_toNat]⟩

/-- The reference machine lets an instruction of the table, but the reserved one, through its two checks. -/
theorem passes_checks {i : Instr} (h : opNumber i ≠ 40) :
    (accessesMemory (opNumber i) ∨ opNumber i = 39 ∨ (48 ≤ opNumber i ∧ opNumber i ≤ 55)) ∧
    ¬((opNumber i = 39 ∧ modNumber i ∉ [0, 1, 4, 5, 6, 7, 8, 9]) ∨
      (48 ≤ opNumber i ∧ opNumber i ≤ 55 ∧ 2 < modNumber i)) := by
  rcases pairListed_of_instr i with hacc | h40 | ⟨hop, hmod⟩ | ⟨hlow, hhigh, hmod⟩
  · have hranges := (accessesMemory_iff _).1 hacc
    exact ⟨.inl hacc, by omega⟩
  · exact absurd h40 h
  · refine ⟨.inr (.inl hop), ?_⟩
    rintro (⟨-, hnot⟩ | ⟨hlow, -⟩)
    · exact hnot hmod
    · omega
  · exact ⟨.inr (.inr ⟨hlow, hhigh⟩), by omega⟩

section Checks

variable {w : Word} {i : Instr} {s : State} (hd : decode w = .instr i)

include hd

theorem refWord_of_reserved (hop : opNumber i = 40) :
    refWord w s = refRaise .unimplemented (some w) none s := by
  obtain ⟨hopcode, -⟩ := numbers_of_decode hd
  simp only [refWord, hopcode, hop, if_true]

variable (h40 : opNumber i ≠ 40)

include h40

theorem refWord_of_no_address (hea : effectiveAddress i s = none) :
    refWord w s = refRaise .indexFault (some w) none s := by
  obtain ⟨hopcode, hmod, hindex, haddress⟩ := numbers_of_decode hd
  obtain ⟨hlisted, hnot⟩ := passes_checks h40
  have href := refAddress_eq_effectiveAddress h40 s
  rw [hea, Option.map_none] at href
  simp only [refWord, hopcode, hmod, hindex, haddress, if_neg h40, if_neg (not_not.2 hlisted),
    if_neg hnot, href]

theorem refWord_of_address {ea : Word} (hea : effectiveAddress i s = some ea) :
    refWord w s =
      if opNumber i = 39 then refJump (modNumber i) ea.toNat s
      else if 48 ≤ opNumber i ∧ opNumber i ≤ 55 then
        refIncDecEnter (opNumber i - 48) (modNumber i) ea.toNat s
      else if Config.memSize ≤ ea.toNat then refRaise .addressFault (some w) (some ea) s
      else refAccess (opNumber i) ea.toNat w s := by
  obtain ⟨hopcode, hmod, hindex, haddress⟩ := numbers_of_decode hd
  obtain ⟨hlisted, hnot⟩ := passes_checks h40
  have href := refAddress_eq_effectiveAddress h40 s
  rw [hea, Option.map_some] at href
  have hword : BitVec.ofNat 64 ea.toNat = ea := by rw [BitVec.ofNat_toNat, BitVec.setWidth_eq]
  simp only [refWord, hopcode, hmod, hindex, haddress, if_neg h40, if_neg (not_not.2 hlisted),
    if_neg hnot, href, hword]

theorem refWord_of_jump {ea : Word} (hop : opNumber i = 39) (hea : effectiveAddress i s = some ea) :
    refWord w s = refJump (modNumber i) ea.toNat s := by
  rw [refWord_of_address hd h40 hea, if_pos hop]

theorem refWord_of_update {ea : Word} (hop : 48 ≤ opNumber i ∧ opNumber i ≤ 55)
    (hea : effectiveAddress i s = some ea) :
    refWord w s = refIncDecEnter (opNumber i - 48) (modNumber i) ea.toNat s := by
  rw [refWord_of_address hd h40 hea, if_neg (by omega), if_pos hop]

variable (hacc : accessesMemory (opNumber i) = true)

include hacc

theorem refWord_of_address_ge {ea : Word} (hea : effectiveAddress i s = some ea)
    (hge : Config.memSize ≤ ea.toNat) :
    refWord w s = refRaise .addressFault (some w) (some ea) s := by
  rw [accessesMemory_iff] at hacc
  rw [refWord_of_address hd h40 hea, if_neg (by omega), if_neg (by omega), if_pos hge]

theorem refWord_of_address_lt {ea : Word} (hea : effectiveAddress i s = some ea)
    (hlt : ea.toNat < Config.memSize) : refWord w s = refAccess (opNumber i) ea.toNat w s := by
  rw [accessesMemory_iff] at hacc
  rw [refWord_of_address hd h40 hea, if_neg (by omega), if_neg (by omega), if_neg (not_le.2 hlt)]

end Checks

/-! ### The operations of the reference machine -/

/-- What each family chooses, by the numbers of the instruction: the register is opcode - base, the
operation is the modifier's or the opcode's (10_state.md R23, 30_encoding.md R81, R82). -/
def Family.Selects (i : Instr) : Family → Prop
  | .arithmetic op =>
      (opNumber i = 1 ∧ op = fun a v => some (a + v)) ∨
      (opNumber i = 2 ∧ op = fun a v => some (a - v)) ∨
      (opNumber i = 3 ∧ op = fun a v => some (a * v)) ∨ (opNumber i = 4 ∧ op = divide)
  | .load r => r = refRegister (opNumber i - 8)
  | .store source => source = if opNumber i = 33 then none else some (refRegister (opNumber i - 24))
  | .jump _ _ | .reserved => True
  | .update op r => r = refRegister (opNumber i - 48) ∧
      ((modNumber i = 0 ∧ op = incremented) ∨ (modNumber i = 1 ∧ op = decremented) ∨
        (modNumber i = 2 ∧ op = entered))
  | .compare r => r = refRegister (opNumber i - 56)

theorem familyOf_selects (i : Instr) : (familyOf i).Selects i := by
  cases i <;>
    simp [familyOf, Family.Selects, opNumber, opcodeOf, modNumber, modifierOf, refRegister]

theorem ofNat_toNat_add_one (v : Word) : BitVec.ofNat 64 (v.toNat + 1) = v + 1 := by
  apply BitVec.eq_of_toNat_eq
  simp [BitVec.toNat_add]

theorem refSet_eq {s : State} {k n : Nat} {v : Word} (h : n % 2 ^ 64 = v.toNat) :
    refSet s k n = advance (s.write (refRegister k) v) := by
  have hv : BitVec.ofNat 64 n = v := BitVec.eq_of_toNat_eq h
  rw [refSet, hv, ofNat_toNat_add_one, advance, State.write_pc]

/-- The result that the opcode chooses is the number written to A (42_arithmetic.md R161 to R164). -/
theorem refArithmetic_of_some {s : State} {opcode : Nat} {v w result : Word}
    (h : (opcode = 1 ∧ result = s.a + v) ∨ (opcode = 2 ∧ result = s.a - v) ∨
      (opcode = 3 ∧ result = s.a * v) ∨ (opcode = 4 ∧ v ≠ 0 ∧ result = s.a / v)) :
    refArithmetic opcode v.toNat w s = advance (s.write .a result) := by
  rcases h with ⟨rfl, rfl⟩ | ⟨rfl, rfl⟩ | ⟨rfl, rfl⟩ | ⟨rfl, hne, rfl⟩
  · exact refSet_eq (BitVec.toNat_add s.a v).symm
  · exact refSet_eq (sub_toNat s.a v).symm
  · exact refSet_eq (BitVec.toNat_mul s.a v).symm
  · have hv : v.toNat ≠ 0 := fun e => hne (BitVec.eq_of_toNat_eq e)
    have hdiv := BitVec.toNat_udiv (x := s.a) (y := v)
    rw [refArithmetic, if_neg fun h => hv h.2]
    refine refSet_eq ?_
    rw [← Nat.mod_eq_of_lt (s.a / v).isLt, hdiv]
    rfl

/-- A performed jump of the reference machine sets STATUS as the halt check does (40_fetch_dispatch.md
R107). -/
theorem refJump_of_taken {s : State} {m : Nat} {k : Saving} {ea : Word} (hs : s.status = .running)
    (htaken : jumpTaken m s.ci = true) (hkeep : k = .keep ↔ m = 1) :
    refJump m ea.toNat s = haltCheck (jumped k ea s) := by
  have hstatus : (jumped k ea s).status = .running := (jumped_status k ea s).trans hs
  have hj : (if m = 1 then s.j else s.pc + 1) = (jumped k ea s).j := by
    simp only [jumped_j, hkeep]
  have hzero : ea.toNat = 0 ↔ ea = 0 := BitVec.toNat_inj (y := 0#64)
  simp only [refJump, if_pos htaken, ofNat_toNat_add_one, BitVec.ofNat_toNat, BitVec.setWidth_eq, hj,
    hzero]
  by_cases hea : ea = 0
  · rw [if_pos hea, haltCheck_of_pc_eq hstatus ((jumped_pc k ea s).trans hea)]
    cases k <;> rfl
  · have hne : (jumped k ea s).pc ≠ Config.haltAddr := by rwa [jumped_pc]
    rw [if_neg hea, haltCheck_of_pc_ne hne, ← hs]
    cases k <;> rfl

theorem refJump_of_not_taken {s : State} {m ea : Nat} (h : jumpTaken m s.ci = false) :
    refJump m ea s = advance s := by
  rw [refJump, h, if_neg Bool.false_ne_true, ofNat_toNat_add_one, advance]

/-- The operation of an update is the one the modifier gives (30_encoding.md R81). -/
theorem refIncDecEnter_eq {s : State} {k m : Nat} {op : Word → Word → Word} (ea : Word)
    (h : (m = 0 ∧ op = incremented) ∨ (m = 1 ∧ op = decremented) ∨ (m = 2 ∧ op = entered)) :
    refIncDecEnter k m ea.toNat s =
      advance (s.write (refRegister k) (op (s.read (refRegister k)) ea)) := by
  rcases h with ⟨rfl, rfl⟩ | ⟨rfl, rfl⟩ | ⟨rfl, rfl⟩
  · exact refSet_eq (incremented_toNat _ _).symm
  · exact refSet_eq (decremented_toNat _ _).symm
  · exact refSet_eq (Nat.mod_eq_of_lt ea.isLt)

/-! ### An instruction and the reference machine -/

/-- The next state of an instruction, after the halt check, is `t`. -/
def RunsTo (i : Instr) (s t : State) : Prop := afterExecution (exec i s) = .next t

theorem runsTo_of_advance {i : Instr} {s u : State} (h : exec i s = .next (advance u))
    (hpc : u.pc.toNat < Config.memSize) : RunsTo i s (advance u) := by
  rw [RunsTo, h, afterExecution, haltCheck_advance hpc]

theorem runsTo_of_raise {i : Instr} {s : State} {cause : FaultCause} {ea : Option Word}
    (h : exec i s = .next (raise cause ea s)) : RunsTo i s (raise cause ea s) := by
  rw [RunsTo, h, afterExecution, haltCheck_raise]

section Runs

variable {w : Word} {i : Instr} {s : State} {ea : Word}

/-- Arithmetic inside memory: a result is written to A, and the quotient by 0 has none. -/
theorem runsTo_of_arithmetic {op : Word → Word → Option Word} (hf : familyOf i = .arithmetic op)
    (hw : memRead s.pc s = some w) (hpc : s.pc.toNat < Config.memSize)
    (hea : eaArith i.address i.index s = some ea) (hlt : ea.toNat < Config.memSize) :
    RunsTo i s (refAccess (opNumber i) ea.toNat w s) := by
  have hsel := familyOf_selects i
  have hd := familyOf_describes i
  have hexec := exec_eq_run i s
  rw [hf] at hsel hd hexec
  obtain ⟨-, hle, -⟩ := hd
  have href : refAccess (opNumber i) ea.toNat w s =
      refArithmetic (opNumber i) (wordAt ea s).toNat w s := if_pos hle
  rw [href]
  cases hop : op s.a (wordAt ea s) with
  | none =>
    obtain ⟨hdiv, hzero⟩ := isDiv_of_no_result hf hop
    rw [refArithmetic, if_pos ⟨hdiv, by rw [hzero]; rfl⟩, refRaise_eq_raise hw]
    exact runsTo_of_raise (hexec.trans (arithmetic_of_none hea hlt hop))
  | some result =>
    rw [refArithmetic_of_some (result := result)]
    · exact runsTo_of_advance (hexec.trans (arithmetic_of_some hea hlt hop)) (by rwa [State.write_pc])
    · rcases hsel with ⟨hn, rfl⟩ | ⟨hn, rfl⟩ | ⟨hn, rfl⟩ | ⟨hn, rfl⟩
      · exact .inl ⟨hn, (Option.some.inj hop).symm⟩
      · exact .inr (.inl ⟨hn, (Option.some.inj hop).symm⟩)
      · exact .inr (.inr (.inl ⟨hn, (Option.some.inj hop).symm⟩))
      · have hne : wordAt ea s ≠ 0 := fun e => nomatch hop.symm.trans (divide_eq_none.2 e)
        rw [divide_of_ne hne] at hop
        exact .inr (.inr (.inr ⟨hn, hne, (Option.some.inj hop).symm⟩))

theorem runsTo_of_load {r : Reg} (hf : familyOf i = .load r) (hpc : s.pc.toNat < Config.memSize)
    (hea : eaStd i.address i.index s = some ea) (hlt : ea.toNat < Config.memSize) :
    RunsTo i s (refAccess (opNumber i) ea.toNat w s) := by
  have hsel := familyOf_selects i
  have hd := familyOf_describes i
  have hexec := exec_eq_run i s
  rw [hf] at hsel hd hexec
  obtain ⟨hlo, hhi, -⟩ := hd
  have href : refAccess (opNumber i) ea.toNat w s = advance (s.write r (wordAt ea s)) := by
    rw [refAccess, if_neg (by omega), if_pos hhi, hsel]
    exact refSet_eq (Nat.mod_eq_of_lt (wordAt ea s).isLt)
  rw [href]
  exact runsTo_of_advance (hexec.trans (loadInto_of_lt r hea hlt)) (by rwa [State.write_pc])

theorem runsTo_of_store {source : Option Reg} (hf : familyOf i = .store source)
    (hpc : s.pc.toNat < Config.memSize) (hea : eaStd i.address i.index s = some ea)
    (hlt : ea.toNat < Config.memSize) : RunsTo i s (refAccess (opNumber i) ea.toNat w s) := by
  have hsel := familyOf_selects i
  have hd := familyOf_describes i
  have hexec := exec_eq_run i s
  rw [hf] at hsel hd hexec
  obtain ⟨hlo, hhi, -⟩ := hd
  have hv : storedWord source s =
      if opNumber i = 33 then 0 else s.read (refRegister (opNumber i - 24)) := by
    rw [hsel]
    split <;> rfl
  have href : refAccess (opNumber i) ea.toNat w s = stored ea (storedWord source s) s := by
    rw [refAccess, if_neg (by omega), if_neg (by omega), if_pos hhi, ofNat_toNat_add_one, ← hv]
    rfl
  rw [href]
  exact runsTo_of_advance (hexec.trans (storeValue_of_lt _ hea hlt)) hpc

theorem runsTo_of_compare {r : Reg} (hf : familyOf i = .compare r)
    (hpc : s.pc.toNat < Config.memSize) (hea : eaStd i.address i.index s = some ea)
    (hlt : ea.toNat < Config.memSize) : RunsTo i s (refAccess (opNumber i) ea.toNat w s) := by
  have hsel := familyOf_selects i
  have hd := familyOf_describes i
  have hexec := exec_eq_run i s
  rw [hf] at hsel hd hexec
  obtain ⟨hlo, -⟩ := hd
  have href : refAccess (opNumber i) ea.toNat w s =
      advance (setFlag (cmp3 (s.read r) (wordAt ea s)) s) := by
    rw [refAccess, if_neg (by omega), if_neg (by omega), if_neg (by omega), ofNat_toNat_add_one, hsel]
    rfl
  rw [href]
  exact runsTo_of_advance (hexec.trans (compareWith_of_lt r hea hlt)) hpc

theorem runsTo_of_jump {c : Condition} {k : Saving} (hf : familyOf i = .jump c k)
    (hs : s.status = .running) (hpc : s.pc.toNat < Config.memSize)
    (hea : eaStd i.address i.index s = some ea) : RunsTo i s (refJump (modNumber i) ea.toNat s) := by
  have hd := familyOf_describes i
  have hexec := exec_eq_run i s
  rw [hf] at hd hexec
  obtain ⟨-, -, hmod, hkeep⟩ := hd
  have htaken : jumpTaken (modNumber i) s.ci = conditionHolds c s.ci := by
    rw [hmod, jumpTaken_jumpModifier]
  cases hc : conditionHolds c s.ci with
  | true =>
    rw [refJump_of_taken hs (htaken.trans hc) hkeep, RunsTo, hexec, Family.run,
      jumpWhen_of_holds hea hc, afterExecution]
  | false =>
    rw [refJump_of_not_taken (htaken.trans hc)]
    exact runsTo_of_advance (hexec.trans (jumpWhen_of_not_holds hea hc)) hpc

theorem runsTo_of_update {op : Word → Word → Word} {r : Reg} (hf : familyOf i = .update op r)
    (hpc : s.pc.toNat < Config.memSize) (hea : eaStd i.address i.index s = some ea) :
    RunsTo i s (refIncDecEnter (opNumber i - 48) (modNumber i) ea.toNat s) := by
  have hsel := familyOf_selects i
  have hexec := exec_eq_run i s
  rw [hf] at hsel hexec
  obtain ⟨hr, hop⟩ := hsel
  rw [refIncDecEnter_eq ea hop, ← hr]
  exact runsTo_of_advance (hexec.trans (updateByAddress_of_some op r hea)) (by rwa [State.write_pc])

end Runs

/-- A fetched instruction that accesses memory: the address is checked, then the family's operation. -/
theorem runsTo_refWord_of_access {w : Word} {i : Instr} {s : State} {ea : Word}
    (hd : decode w = .instr i) (hacc : accessesMemory (opNumber i) = true)
    (hw : memRead s.pc s = some w) (hea : effectiveAddress i s = some ea) :
    RunsTo i s (refWord w s) := by
  have hranges := (accessesMemory_iff _).1 hacc
  have h40 : opNumber i ≠ 40 := by omega
  obtain ⟨hpc, -⟩ := memRead_eq_some.1 hw
  by_cases hlt : ea.toNat < Config.memSize
  · rw [refWord_of_address_lt hd h40 hacc hea hlt]
    have hform := indexing_eq_form i
    have hdesc := familyOf_describes i
    cases hf : familyOf i with rw [hf] at hform hdesc
    | arithmetic op =>
      rw [effectiveAddress_of_arithmetic s hform] at hea
      exact runsTo_of_arithmetic hf hw hpc hea hlt
    | load r =>
      rw [effectiveAddress_of_standard s hform] at hea
      exact runsTo_of_load hf hpc hea hlt
    | store source =>
      rw [effectiveAddress_of_standard s hform] at hea
      exact runsTo_of_store hf hpc hea hlt
    | compare r =>
      rw [effectiveAddress_of_standard s hform] at hea
      exact runsTo_of_compare hf hpc hea hlt
    | jump | reserved | update =>
      simp only [Family.Describes] at hdesc
      omega
  · rw [refWord_of_address_ge hd h40 hacc hea (not_lt.1 hlt), refRaise_eq_raise hw]
    exact runsTo_of_raise (exec_of_address_ge hacc hea (not_lt.1 hlt))

theorem exec_of_opNumber_40 {i : Instr} (h : opNumber i = 40) (s : State) :
    exec i s = .next (raise .unimplemented none s) := by
  have hdesc := familyOf_describes i
  rw [exec_eq_run]
  cases hf : familyOf i with rw [hf] at hdesc
  | reserved => rfl
  | arithmetic | load | store | jump | update | compare =>
    simp only [Family.Describes] at hdesc
    omega

/-- An instruction that examines its index field and has no effective address is ill formed. -/
theorem wellFormed_of_no_address {i : Instr} {s : State} (h40 : opNumber i ≠ 40)
    (hea : effectiveAddress i s = none) : i.wellFormed = false := by
  have hdesc := familyOf_describes i
  have hform := indexing_eq_form i
  cases hf : familyOf i with rw [hf] at hdesc hform
  | arithmetic op =>
    rwa [wellFormed_eq_false_iff_eaArith s hform, ← effectiveAddress_of_arithmetic s hform]
  | reserved => exact absurd hdesc h40
  | load | store | jump | update | compare =>
    rwa [wellFormed_eq_false_iff_eaStd s hform, ← effectiveAddress_of_standard s hform]

/-- A fetched instruction does what the reference machine does with its word: the index field is checked
first, then the address where memory is accessed, then the operation of the family follows. -/
theorem runsTo_refWord {w : Word} {i : Instr} {s : State} (hd : decode w = .instr i)
    (hs : s.status = .running) (hw : memRead s.pc s = some w) : RunsTo i s (refWord w s) := by
  obtain ⟨hpc, -⟩ := memRead_eq_some.1 hw
  by_cases h40 : opNumber i = 40
  · rw [refWord_of_reserved hd h40, refRaise_eq_raise hw]
    exact runsTo_of_raise (exec_of_opNumber_40 h40 s)
  · cases hea : effectiveAddress i s with
    | none =>
      rw [refWord_of_no_address hd h40 hea, refRaise_eq_raise hw]
      exact runsTo_of_raise (exec_of_illFormed s (wellFormed_of_no_address h40 hea))
    | some ea =>
      have hform := indexing_eq_form i
      have hdesc := familyOf_describes i
      cases hf : familyOf i with rw [hf] at hform hdesc
      | jump c k =>
        obtain ⟨hop, -⟩ := hdesc
        rw [refWord_of_jump hd h40 hop hea]
        exact runsTo_of_jump hf hs hpc ((effectiveAddress_of_standard s hform).symm.trans hea)
      | update op r =>
        obtain ⟨hlo, hhi, -⟩ := hdesc
        rw [refWord_of_update hd h40 ⟨hlo, hhi⟩ hea]
        exact runsTo_of_update hf hpc ((effectiveAddress_of_standard s hform).symm.trans hea)
      | reserved => exact absurd hdesc h40
      | arithmetic | load | store | compare =>
        simp only [Family.Describes] at hdesc
        exact runsTo_refWord_of_access hd ((accessesMemory_iff _).2 (by omega)) hw hea

/-- A fetched word, an instruction or not, is run as the reference machine runs it. -/
theorem runWord_eq_refWord {w : Word} {s : State} (hs : s.status = .running)
    (hw : memRead s.pc s = some w) : runWord exec w s = .next (refWord w s) := by
  unfold runWord
  cases hd : decode w with
  | instr i => exact runsTo_refWord hd hs hw
  | reject why =>
    have hnot : ¬ PairListed (w.toNat % 2 ^ 8) (w.toNat / 2 ^ 8 % 2 ^ 8) := fun h => by
      obtain ⟨i, hi⟩ := (decodes_iff_pairListed w).2 h
      exact nomatch hd.symm.trans hi
    rw [refWord_of_not_listed s hnot, refRaise_eq_raise hw]

/-! ### The obligation -/

/-- Settles O47: the four ways a step goes, each as the reference machine goes it. -/
theorem stepIsTheReferenceStep : Obligations.StepIsTheReferenceStep := by
  intro s
  rcases step_cases s with
    ⟨hn, hstep⟩ | ⟨hs, hz, hstep⟩ | ⟨hs, hz, hge, hstep⟩ | ⟨w, hs, hz, hw, hstep⟩ <;> rw [hstep]
  · rw [refStep, if_pos hn]
  · have hzero : s.pc.toNat = 0 := by
      rw [hz]
      rfl
    rw [refStep, if_neg (not_not.2 hs), if_pos hzero, halt]
  · have hzero : s.pc.toNat ≠ 0 := fun e => hz (BitVec.eq_of_toNat_eq e)
    rw [refStep, if_neg (not_not.2 hs), if_neg hzero, if_pos hge, raise, memRead_eq_none.2 hge,
      refRaise]
  · have hzero : s.pc.toNat ≠ 0 := fun e => hz (BitVec.eq_of_toNat_eq e)
    obtain ⟨hlt, hword⟩ := memRead_eq_some.1 hw
    rw [refStep, if_neg (not_not.2 hs), if_neg hzero, if_neg (not_le.2 hlt), wordAt, hword]
    exact runWord_eq_refWord hs hw

end Sys2Proof.Machine
